-- ==== Sys2Proof/Word.lean ====
section
/-! DEFINITION. The word types: the register word (R11, R14), the 16-bit operation selector (R104) and the 12-bit port
offset (R103, R104). There are no signed values and no arithmetic on words (R14, R19), so nothing else is needed. -/

namespace Sys2Proof

/-- `Word`: an unsigned `W`-bit value (R14). `W` is a parameter, a value and not a number known to a type (R11, D1), so a
word is the natural number its bits spell, below `2 ^ W` (log entry 1); bit `i`, `Nat.testBit v i`, stands for pin `i` (R13).
`|`, `&` and `^` of R14 are `|||`, `&&&` and `^^^`. -/
abbrev Word := Nat

/-- `a & ~v` (R14), the one use the spec makes of `~`: the bits of `a` that are 0 in `v`. On a `W`-bit `a` it is the same for
every `W` (`andNot_eq_and_not`). -/
def andNot (a v : Word) : Word := a ^^^ (a &&& v)

/-- The operation selector `sel` (R104). -/
abbrev Sel := BitVec 16

/-- A port's byte offset inside a block, `sel[11:0]` (R103, R104). -/
abbrev Offset := BitVec 12

end Sys2Proof
end

