-- ==== Sys2Proof/Syntax.lean ====
section
/-! DEFINITION. The ports (R101), the operations of the opcode table (R105 to R107) as the one inductive `Instr`, the
pair `(sel, operands)` a program is a list of (R104, R106), and the eight reasons of refusal (R232). -/

namespace Sys2Proof

/-- The ten write ports of R101. -/
inductive WritePort where
  /-- pin-enable ("PIO enable") -/
  | pen
  /-- direction-enable -/
  | den
  /-- filter-enable -/
  | fen
  /-- filter-disable -/
  | fdis
  /-- output-set -/
  | oset
  /-- output-clear -/
  | oclr
  /-- multidrive-enable -/
  | mden
  /-- multidrive-disable -/
  | mddis
  /-- pull-up-disable -/
  | pudis
  /-- pull-up-enable -/
  | puen
  deriving DecidableEq, Repr

/-- The eleven ports of R101: a write-only port, or the read-only pin-level port. -/
inductive Port where
  | wo (P : WritePort)
  | level
  deriving DecidableEq, Repr

/-- One constructor per row of spec/opcode_table.json. `c` is the controller index (R106); it is a plain number, so an
index that names no controller can be written down, and its operation is refused (R106). -/
inductive Instr where
  /-- W_OSET (R131) -/
  | wOset (c : Nat) (data : Word)
  /-- W_OCLR (R132) -/
  | wOclr (c : Nat) (data : Word)
  /-- W_PUEN (R133) -/
  | wPuen (c : Nat) (data : Word)
  /-- W_PUDIS (R134) -/
  | wPudis (c : Nat) (data : Word)
  /-- W_FEN (R135) -/
  | wFen (c : Nat) (data : Word)
  /-- W_FDIS (R136) -/
  | wFdis (c : Nat) (data : Word)
  /-- W_PEN (R137) -/
  | wPen (c : Nat) (data : Word)
  /-- W_DEN (R138) -/
  | wDen (c : Nat) (data : Word)
  /-- W_MDEN (R139) -/
  | wMden (c : Nat) (data : Word)
  /-- W_MDDIS (R140) -/
  | wMddis (c : Nat) (data : Word)
  /-- R_OSET (R161) -/
  | rOset (c : Nat)
  /-- R_OCLR (R162) -/
  | rOclr (c : Nat)
  /-- R_PUEN (R163) -/
  | rPuen (c : Nat)
  /-- R_PUDIS (R164) -/
  | rPudis (c : Nat)
  /-- R_FEN (R165) -/
  | rFen (c : Nat)
  /-- R_FDIS (R166) -/
  | rFdis (c : Nat)
  /-- R_PEN (R167) -/
  | rPen (c : Nat)
  /-- R_DEN (R168) -/
  | rDen (c : Nat)
  /-- R_MDEN (R169) -/
  | rMden (c : Nat)
  /-- R_MDDIS (R170) -/
  | rMddis (c : Nat)
  /-- R_LEVEL (R171) -/
  | rLevel (c : Nat)
  /-- SET_HIGH (R191) -/
  | setHigh (c : Nat) (mask : Word)
  /-- SET_LOW (R192) -/
  | setLow (c : Nat) (mask : Word)
  /-- CFG_PULLUP (R193) -/
  | cfgPullup (c : Nat) (mask : Word) (enable : Bool)
  /-- CFG_INPUT (R194) -/
  | cfgInput (c : Nat) (mask : Word) (attrs : Word)
  /-- CFG_OUTPUT (R195) -/
  | cfgOutput (c : Nat) (mask : Word) (level : Word) (multidrive : Bool) (pullup : Bool)
  /-- GET_LEVEL (R197) -/
  | getLevel (c : Nat) (mask : Word)
  /-- CLOCK_ENABLE (R196) -/
  | clockEnable (c : Nat)
  deriving DecidableEq, Repr

/-- A `Bool` operand as a caller passes it: a `Bool`, or a `Word` (R108, R199). -/
inductive BoolArg where
  | bool (b : Bool)
  | word (w : Word)
  deriving DecidableEq, Repr

/-- The operand record of R106. Each operation reads only the fields that R106 lists for it (log entry 5). -/
structure Operands where
  c : Nat
  data : Word
  mask : Word
  level : Word
  attrs : Word
  enable : BoolArg
  multidrive : BoolArg
  pullup : BoolArg
  deriving DecidableEq, Repr

/-- One element of a program: the pair `(sel, operands)` (R104). -/
structure Op where
  sel : Sel
  operands : Operands
  deriving DecidableEq, Repr

/-- The reasons of refusal of R232, with the spec's codes 16 to 23. -/
inductive RefusalReason where
  /-- 16: selector class 11, a nonzero reserved field, or an unknown call id (R110) -/
  | reservedSelector
  /-- 17: bus offset not a multiple of 4 (R73) -/
  | misaligned
  /-- 18: aligned offset inside a block, but none of the eleven ports (R74) -/
  | unmappedOffset
  /-- 19: bus write to LEVEL (R109) -/
  | readOnlyPort
  /-- 20: bus access of a size other than `W` bits (R73) -/
  | badWidth
  /-- 21: bus address inside no controller's block (R72) -/
  | notThisBlock
  /-- 22: operand `c >= N_CTRL` (R106) -/
  | noSuchController
  /-- 23: instruction fetch from a block address (R85) -/
  | notExecutable
  deriving DecidableEq, Repr

end Sys2Proof
end

