-- ==== Sys2Proof/Config.lean ====
section
/-! DEFINITION. The implementation parameters of R11 as plain data, their defaults, the values the spec leaves OPEN as
constants without a body, and the two free values (the draw of R160 and R171, the schedule of R248). -/

namespace Sys2Proof

/-- `WO_READ` (R11, D8): what a bus read of a write-only port returns. -/
inductive WoRead where
  | zero
  | draw
  deriving DecidableEq, Repr

/-- `LEVEL_MODEL` (R11, D12): its only value is `FREE`. -/
inductive LevelModel where
  | free
  deriving DecidableEq, Repr

/-- `BYTE_ORDER` (R11, R76, D7): OPEN, and no rule of the spec reads it. -/
inductive ByteOrder where
  | little
  | big
  deriving DecidableEq, Repr, Inhabited

/-- `REG_OFFSET` (R11, R101): the byte offset of each of the eleven ports, below `0x1000` by its type (R103). -/
structure RegOffsets where
  pen : Offset
  den : Offset
  fen : Offset
  fdis : Offset
  oset : Offset
  oclr : Offset
  level : Offset
  mden : Offset
  mddis : Offset
  pudis : Offset
  puen : Offset
  deriving DecidableEq, Repr

/-- The parameters of R11. Fixed for the whole run (R12). -/
structure Params where
  /-- `W` -/
  width : Nat
  /-- `N_PINS` -/
  nPins : Nat
  /-- `N_CTRL` -/
  nCtrl : Nat
  /-- `ADDR_W` -/
  addrW : Nat
  /-- `CTRL_BASE[c]`, the entry of index `c` -/
  ctrlBase : List Nat
  /-- `BYTE_ORDER` -/
  byteOrder : ByteOrder
  /-- `REG_OFFSET` -/
  regOffset : RegOffsets
  /-- `BLOCK_SIZE` -/
  blockSize : Nat
  /-- `WO_READ` -/
  woRead : WoRead
  /-- `LEVEL_MODEL` -/
  levelModel : LevelModel
  /-- `ATTR_PULLUP` -/
  attrPullup : Word
  /-- `ATTR_DEGLITCH` -/
  attrDeglitch : Word
  /-- `ATTR_DEBOUNCE` -/
  attrDebounce : Word
  /-- `RESET_PIO_EN` -/
  resetPioEn : Word
  /-- `RESET_OUT_EN` -/
  resetOutEn : Word
  /-- `RESET_OUT_DATA` -/
  resetOutData : Word
  /-- `RESET_PU_EN` -/
  resetPuEn : Word
  /-- `RESET_FILT_EN` -/
  resetFiltEn : Word
  /-- `RESET_MD_EN` -/
  resetMdEn : Word
  /-- `N_AGENTS` -/
  nAgents : Nat
  deriving DecidableEq, Repr

/-- The default `REG_OFFSET` of R101 (D4, general knowledge of the spec; log entry 2). -/
def Config.regOffset : RegOffsets :=
  { pen := 0x000, den := 0x010, fen := 0x020, fdis := 0x024, oset := 0x030, oclr := 0x034, level := 0x03C,
    mden := 0x050, mddis := 0x054, pudis := 0x060, puen := 0x064 }

/-- The parameters with every default of R11 in place, over the values R11 leaves OPEN (log entry 2). -/
def Config.defaults (nCtrl addrW : Nat) (ctrlBase : List Nat) (byteOrder : ByteOrder) : Params :=
  { width := 32, nPins := 32, nCtrl, addrW, ctrlBase, byteOrder, regOffset := Config.regOffset, blockSize := 0x200,
    woRead := .zero, levelModel := .free, attrPullup := 1 <<< 0, attrDeglitch := 1 <<< 1, attrDebounce := 1 <<< 3,
    resetPioEn := 0, resetOutEn := 0, resetOutData := 0, resetPuEn := 0, resetFiltEn := 0, resetMdEn := 0,
    nAgents := 1 }

/-- How many controllers there are beyond the first: `N_CTRL` is OPEN (R11, D3), at least 1. -/
opaque Config.moreCtrl : Nat

/-- `ADDR_W`, OPEN (R11, D3). -/
opaque Config.addrW : Nat

/-- `CTRL_BASE`, OPEN (R11, D3). -/
opaque Config.ctrlBase : List Nat

/-- `BYTE_ORDER`, OPEN (R11, D7). -/
opaque Config.byteOrder : ByteOrder

/-- The value of draw number `n` in a machine of width `w`: any `w`-bit word (R160, R171, D8, D12). -/
opaque Config.draw : (w : Nat) → Nat → BitVec w

/-- The free choice of R248 at turn number `n`: any number. -/
opaque Config.schedule : Nat → Nat

/-- No two blocks of `size` bytes at the listed bases overlap (R72). -/
def blocksDisjoint (size : Nat) : List Nat → Bool
  | [] => true
  | b :: bs => bs.all (fun b' => decide (b + size ≤ b') || decide (b' + size ≤ b)) && blocksDisjoint size bs

/-- What R72 asks of `CTRL_BASE`: one base per controller, each a multiple of 4, each block inside the address space,
no two blocks overlapping. -/
def layoutOk (nCtrl size addrW : Nat) (bases : List Nat) : Bool :=
  decide (bases.length = nCtrl) && bases.all (fun b => decide (b % 4 = 0) && decide (b + size ≤ 2 ^ addrW))
    && blocksDisjoint size bases

/-- The machine's parameters: the defaults, and the OPEN values. The OPEN address layout is taken where it meets R72;
where it does not, blocks that lie one after another stand for it, so that R72 holds of it whatever it is (log entry 3). -/
def Config.params : Params :=
  { Config.defaults (Config.moreCtrl + 1) 0 [] Config.byteOrder with
    addrW := if layoutOk (Config.moreCtrl + 1) 0x200 Config.addrW Config.ctrlBase then Config.addrW
      else Config.moreCtrl + 10
    ctrlBase := if layoutOk (Config.moreCtrl + 1) 0x200 Config.addrW Config.ctrlBase then Config.ctrlBase
      else (List.range (Config.moreCtrl + 1)).map (· * 0x200) }

end Sys2Proof
end

