-- ==== Sys2Proof/Machine/Operands.lean ====
section
/-! DEFINITION. Operand forms: the width of a word (R14, R106), the pins a word may name (R14, R130, R198), a `Bool` operand given as a word (R108, R199),
the attribute bits of `CFG_INPUT` (R108, R194, R200), and the zero operand record. -/

namespace Sys2Proof

/-- The word is `W` bits wide (R14, R106). -/
def fits (p : Params) (v : Word) : Bool := decide (v < 2 ^ p.width)

/-- `PINS_MASK` (R14): the bits of the pins that exist. -/
def pinsMask (p : Params) : Word :=
  if p.nPins < p.width then (1 <<< p.nPins) - 1 else 2 ^ p.width - 1

/-- The word has a 1 at a bit `i >= N_PINS`: `(v & ~PINS_MASK) != 0` (R130, R198). -/
def outOfRange (p : Params) (v : Word) : Bool := andNot v (pinsMask p) != 0

/-- The first word of the list that names a pin that does not exist: the offending word of R231. -/
def firstOutOfRange (p : Params) (ws : List Word) : Option Word := ws.find? (outOfRange p)

/-- A `Bool` operand given as a `Word` is true iff the word is nonzero (R108, R199). -/
def boolOperand : BoolArg → Bool
  | .bool b => b
  | .word w => w != 0

/-- `(attrs & ATTR_PULLUP) != 0` (R194). -/
def attrWantsPullup (p : Params) (attrs : Word) : Bool := attrs &&& p.attrPullup != 0

/-- `(attrs & (ATTR_DEGLITCH | ATTR_DEBOUNCE)) != 0`: both map to "filter enabled" (R194). -/
def attrWantsFilter (p : Params) (attrs : Word) : Bool := attrs &&& (p.attrDeglitch ||| p.attrDebounce) != 0

/-- The record in which every operand is zero. -/
def zeroOperands : Operands :=
  { c := 0, data := 0, mask := 0, level := 0, attrs := 0, enable := .bool false, multidrive := .bool false,
    pullup := .bool false }

end Sys2Proof
end

