-- ==== Sys2Proof/WellFormed.lean ====
section
/-! DEFINITION. The checks on parameters (R11, R14, R72, R103) and on instructions (R106, R130, R198), each a Bool; and what a `Bool` operand means (R108,
R199). -/

namespace Sys2Proof

/-- The eleven offsets as a list, in the order of R101. -/
def RegOffsets.toList (m : RegOffsets) : List Offset :=
  [m.pen, m.den, m.fen, m.fdis, m.oset, m.oclr, m.level, m.mden, m.mddis, m.pudis, m.puen]

/-- R103, first two constraints: the eleven offsets are distinct and each is a multiple of 4 (that each is below
`0x1000` is its type). -/
def RegOffsets.wf (m : RegOffsets) : Bool :=
  decide m.toList.Nodup && m.toList.all (fun o => o.extractLsb' 0 2 == 0#2)

/-- R103 with `BLOCK_SIZE`: each offset is below it. -/
def RegOffsets.inBlock (m : RegOffsets) (size : Nat) : Bool := m.toList.all (fun o => decide (o.toNat < size))

/-- The parameters that are words: the attribute bits and the reset values (R11). -/
def Params.words (p : Params) : List Word :=
  [p.attrPullup, p.attrDeglitch, p.attrDebounce, p.resetPioEn, p.resetOutEn, p.resetOutData, p.resetPuEn, p.resetFiltEn,
    p.resetMdEn]

/-- What R11, R14, R72 and R103 ask of the parameters. -/
def Params.wf (p : Params) : Bool :=
  decide (1 ≤ p.nPins) && decide (p.nPins ≤ p.width) && decide (1 ≤ p.nCtrl) && decide (1 ≤ p.nAgents)
    && layoutOk p.nCtrl p.blockSize p.addrW p.ctrlBase && p.regOffset.wf && p.regOffset.inBlock p.blockSize
    && p.words.all (fits p)

/-- The controller an instruction names (R106). -/
def Instr.ctrlIndex : Instr → Nat
  | .wOset c _ | .wOclr c _ | .wPuen c _ | .wPudis c _ | .wFen c _ | .wFdis c _ | .wPen c _ | .wDen c _
  | .wMden c _ | .wMddis c _ => c
  | .rOset c | .rOclr c | .rPuen c | .rPudis c | .rFen c | .rFdis c | .rPen c | .rDen c | .rMden c | .rMddis c
  | .rLevel c => c
  | .setHigh c _ | .setLow c _ | .cfgPullup c _ _ | .cfgInput c _ _ | .cfgOutput c _ _ _ _ | .getLevel c _ => c
  | .clockEnable c => c

/-- The operand words that must name existing pins only (R130, R198); `attrs` is not range-checked (R194). -/
def Instr.pinWords : Instr → List Word
  | .wOset _ v | .wOclr _ v | .wPuen _ v | .wPudis _ v | .wFen _ v | .wFdis _ v | .wPen _ v | .wDen _ v
  | .wMden _ v | .wMddis _ v => [v]
  | .rOset _ | .rOclr _ | .rPuen _ | .rPudis _ | .rFen _ | .rFdis _ | .rPen _ | .rDen _ | .rMden _ | .rMddis _
  | .rLevel _ => []
  | .setHigh _ m | .setLow _ m | .cfgPullup _ m _ | .cfgInput _ m _ | .getLevel _ m => [m]
  | .cfgOutput _ m l _ _ => [m, l]
  | .clockEnable _ => []

/-- The operand words (R106). -/
def Instr.words : Instr → List Word
  | .wOset _ v | .wOclr _ v | .wPuen _ v | .wPudis _ v | .wFen _ v | .wFdis _ v | .wPen _ v | .wDen _ v
  | .wMden _ v | .wMddis _ v => [v]
  | .rOset _ | .rOclr _ | .rPuen _ | .rPudis _ | .rFen _ | .rFdis _ | .rPen _ | .rDen _ | .rMden _ | .rMddis _
  | .rLevel _ => []
  | .setHigh _ m | .setLow _ m | .cfgPullup _ m _ | .getLevel _ m => [m]
  | .cfgInput _ m a => [m, a]
  | .cfgOutput _ m l _ _ => [m, l]
  | .clockEnable _ => []

/-- What a `Bool` operand means, as a caller passes it: a word means true iff it is nonzero (R108, R199). -/
def BoolArg.means : BoolArg → Bool → Prop
  | .bool b, e => e = b
  | .word w, e => e = true ↔ w ≠ 0

/-- The words of an operand record, a `Bool` operand passed as a word among them. -/
def Operands.words (o : Operands) : List Word :=
  [o.data, o.mask, o.level, o.attrs]
    ++ [o.enable, o.multidrive, o.pullup].flatMap (fun b => match b with | .bool _ => [] | .word w => [w])

/-- An instruction names an existing controller (R106) and existing pins only (R130, R198), and its words are `W` bits wide. An instruction that does not
is still an instruction: the machine refuses it or faults on it, by name. -/
def Instr.wf (p : Params) (i : Instr) : Bool :=
  decide (i.ctrlIndex < p.nCtrl) && i.pinWords.all (fun v => !outOfRange p v) && i.words.all (fits p)

end Sys2Proof
end

