-- ==== Sys2Proof/Decode.lean ====
section
/-! DEFINITION. The decoder of R111, total on every selector and rejecting by the reasons of R110, then the encoder
written from R105 to R107. Decoding follows `REG_OFFSET`, a parameter. At the end the textual syntax of R113. -/

namespace Sys2Proof

/-- `REG_OFFSET[P]` (R101). -/
def portOffset (m : RegOffsets) : Port → Offset
  | .wo .pen => m.pen
  | .wo .den => m.den
  | .wo .fen => m.fen
  | .wo .fdis => m.fdis
  | .wo .oset => m.oset
  | .wo .oclr => m.oclr
  | .level => m.level
  | .wo .mden => m.mden
  | .wo .mddis => m.mddis
  | .wo .pudis => m.pudis
  | .wo .puen => m.puen

/-- The eleven ports, in the order of R101. -/
def allPorts : List Port :=
  [.wo .pen, .wo .den, .wo .fen, .wo .fdis, .wo .oset, .wo .oclr, .level, .wo .mden, .wo .mddis, .wo .pudis, .wo .puen]

/-- The port at a byte offset, if there is one (R71, R74, R111). -/
def portAt (m : RegOffsets) (off : Nat) : Option Port := allPorts.find? (fun P => (portOffset m P).toNat == off)

/-- What a selector names (R104): a bus read of a port, a bus write of a write port, or one of the calls of R107. -/
inductive OpCode where
  | br (P : Port)
  | bw (P : WritePort)
  | setHigh
  | setLow
  | cfgPullup
  | cfgInput
  | cfgOutput
  | getLevel
  | clockEnable
  deriving DecidableEq, Repr

/-- The call identifiers of R107. -/
def decodeCall (id : BitVec 8) : Except RefusalReason OpCode :=
  if id = 0x00#8 then .ok .setHigh
  else if id = 0x01#8 then .ok .setLow
  else if id = 0x02#8 then .ok .cfgPullup
  else if id = 0x03#8 then .ok .cfgInput
  else if id = 0x04#8 then .ok .cfgOutput
  else if id = 0x05#8 then .ok .getLevel
  else if id = 0x10#8 then .ok .clockEnable
  else .error .reservedSelector

/-- The decoder of R111, its checks in the order R111 shows them. -/
def decodeSel (m : RegOffsets) (sel : Sel) : Except RefusalReason OpCode :=
  let cls := sel.extractLsb' 14 2
  if cls = 0b11#2 then .error .reservedSelector
  else if cls = 0b10#2 then
    if sel.extractLsb' 8 6 ≠ 0#6 then .error .reservedSelector else decodeCall (sel.extractLsb' 0 8)
  else if sel.extractLsb' 12 2 ≠ 0#2 then .error .reservedSelector
  else if sel.extractLsb' 0 2 ≠ 0#2 then .error .misaligned
  else
    match portAt m (sel.extractLsb' 0 12).toNat with
    | none => .error .unmappedOffset
    | some P =>
      if cls = 0b00#2 then .ok (.br P)
      else
        match P with
        | .level => .error .readOnlyPort
        | .wo P => .ok (.bw P)

/-- The bus read instruction of a port (R105, R161 to R171). -/
def readInstr (P : Port) (c : Nat) : Instr :=
  match P with
  | .wo .pen => .rPen c
  | .wo .den => .rDen c
  | .wo .fen => .rFen c
  | .wo .fdis => .rFdis c
  | .wo .oset => .rOset c
  | .wo .oclr => .rOclr c
  | .level => .rLevel c
  | .wo .mden => .rMden c
  | .wo .mddis => .rMddis c
  | .wo .pudis => .rPudis c
  | .wo .puen => .rPuen c

/-- The bus write instruction of a write port (R105, R131 to R140). -/
def writeInstr (P : WritePort) (c : Nat) (data : Word) : Instr :=
  match P with
  | .pen => .wPen c data
  | .den => .wDen c data
  | .fen => .wFen c data
  | .fdis => .wFdis c data
  | .oset => .wOset c data
  | .oclr => .wOclr c data
  | .mden => .wMden c data
  | .mddis => .wMddis c data
  | .pudis => .wPudis c data
  | .puen => .wPuen c data

/-- The operation with its operands assembled from the record (R106, R108). -/
def OpCode.withOperands (oc : OpCode) (o : Operands) : Instr :=
  match oc with
  | .br P => readInstr P o.c
  | .bw P => writeInstr P o.c o.data
  | .setHigh => .setHigh o.c o.mask
  | .setLow => .setLow o.c o.mask
  | .cfgPullup => .cfgPullup o.c o.mask (boolOperand o.enable)
  | .cfgInput => .cfgInput o.c o.mask o.attrs
  | .cfgOutput => .cfgOutput o.c o.mask o.level (boolOperand o.multidrive) (boolOperand o.pullup)
  | .getLevel => .getLevel o.c o.mask
  | .clockEnable => .clockEnable o.c

/-- Decode one element of a program (R104, R111). -/
def decode (m : RegOffsets) (op : Op) : Except RefusalReason Instr :=
  match decodeSel m op.sel with
  | .ok oc => .ok (oc.withOperands op.operands)
  | .error r => .error r

/-- The operation of the table that an instruction is. -/
def Instr.opCode : Instr → OpCode
  | .wOset _ _ => .bw .oset
  | .wOclr _ _ => .bw .oclr
  | .wPuen _ _ => .bw .puen
  | .wPudis _ _ => .bw .pudis
  | .wFen _ _ => .bw .fen
  | .wFdis _ _ => .bw .fdis
  | .wPen _ _ => .bw .pen
  | .wDen _ _ => .bw .den
  | .wMden _ _ => .bw .mden
  | .wMddis _ _ => .bw .mddis
  | .rOset _ => .br (.wo .oset)
  | .rOclr _ => .br (.wo .oclr)
  | .rPuen _ => .br (.wo .puen)
  | .rPudis _ => .br (.wo .pudis)
  | .rFen _ => .br (.wo .fen)
  | .rFdis _ => .br (.wo .fdis)
  | .rPen _ => .br (.wo .pen)
  | .rDen _ => .br (.wo .den)
  | .rMden _ => .br (.wo .mden)
  | .rMddis _ => .br (.wo .mddis)
  | .rLevel _ => .br .level
  | .setHigh _ _ => .setHigh
  | .setLow _ _ => .setLow
  | .cfgPullup _ _ _ => .cfgPullup
  | .cfgInput _ _ _ => .cfgInput
  | .cfgOutput _ _ _ _ _ => .cfgOutput
  | .getLevel _ _ => .getLevel
  | .clockEnable _ => .clockEnable

/-- The selector of an operation (R105, R107): `REG_OFFSET[P]`, `0x4000 | REG_OFFSET[P]`, or the call's `0x8000 | id`. -/
def selectorOf (m : RegOffsets) : OpCode → Sel
  | .br P => (portOffset m P).setWidth 16
  | .bw P => 0x4000#16 ||| (portOffset m (.wo P)).setWidth 16
  | .setHigh => 0x8000#16
  | .setLow => 0x8001#16
  | .cfgPullup => 0x8002#16
  | .cfgInput => 0x8003#16
  | .cfgOutput => 0x8004#16
  | .getLevel => 0x8005#16
  | .clockEnable => 0x8010#16

/-- The operand record of an instruction: its operands under the names of R106, every other field zero. -/
def Instr.operands (i : Instr) : Operands :=
  let z := { zeroOperands with c := i.ctrlIndex }
  match i with
  | .wOset _ v | .wOclr _ v | .wPuen _ v | .wPudis _ v | .wFen _ v | .wFdis _ v | .wPen _ v | .wDen _ v
  | .wMden _ v | .wMddis _ v => { z with data := v }
  | .rOset _ | .rOclr _ | .rPuen _ | .rPudis _ | .rFen _ | .rFdis _ | .rPen _ | .rDen _ | .rMden _ | .rMddis _
  | .rLevel _ | .clockEnable _ => z
  | .setHigh _ k | .setLow _ k | .getLevel _ k => { z with mask := k }
  | .cfgPullup _ k e => { z with mask := k, enable := .bool e }
  | .cfgInput _ k a => { z with mask := k, attrs := a }
  | .cfgOutput _ k l md pu => { z with mask := k, level := l, multidrive := .bool md, pullup := .bool pu }

/-- The element of a program that stands for an instruction (R104 to R107). -/
def encode (m : RegOffsets) (i : Instr) : Op := { sel := selectorOf m i.opCode, operands := i.operands }

/-- The program element whose selector is the low bits of `w` and whose operands are all zero; none where the table's
bits do not fit the 16 bits of a selector (R112). -/
def tableOp (nbits w : Nat) : Option Op :=
  if w % 2 ^ nbits < 2 ^ 16 then some { sel := BitVec.ofNat 16 (w % 2 ^ nbits), operands := zeroOperands } else none

/-- The instruction the decoder reads from a selector numbered as the opcode table numbers it, at the default
`REG_OFFSET`, with operands of zero. -/
def decodeTableWord (nbits w : Nat) : Option Instr :=
  match tableOp nbits w with
  | none => none
  | some op =>
    match decode Config.params.regOffset op with
    | .ok i => some i
    | .error _ => none

/-! ### Textual syntax (R113) -/

/-- The name of a port (R101). -/
def portName : Port → String
  | .wo .pen => "PEN"
  | .wo .den => "DEN"
  | .wo .fen => "FEN"
  | .wo .fdis => "FDIS"
  | .wo .oset => "OSET"
  | .wo .oclr => "OCLR"
  | .level => "LEVEL"
  | .wo .mden => "MDEN"
  | .wo .mddis => "MDDIS"
  | .wo .pudis => "PUDIS"
  | .wo .puen => "PUEN"

/-- A controller index, written `c<n>`. -/
def ctrlText (c : Nat) : String := "c" ++ toString c

/-- One hexadecimal digit. -/
def hexDigit (d : Nat) : String :=
  ((["0", "1", "2", "3", "4", "5", "6", "7", "8", "9", "A", "B", "C", "D", "E", "F"] : List String)[d]?).getD ""

/-- The low `n` hexadecimal digits of a word. -/
def hexDigits : Nat → Word → String
  | 0, _ => ""
  | n + 1, v => hexDigits n (v / 16) ++ hexDigit (v % 16)

/-- The data of a bus write, with all the digits of `W` bits: `0x00000001`. -/
def wordText (p : Params) (v : Word) : String := "0x" ++ hexDigits ((p.width + 3) / 4) v

/-- A word of a primitive, without its leading zero bytes: `0x01`. -/
def argText (v : Word) : String := "0x" ++ hexDigits (2 * (v.log2 / 8 + 1)) v

/-- The attributes of `configure_as_input`: the names of the attribute bits that are set, joined by `|`, and any other bits
as a word. -/
def attrsText (p : Params) (a : Word) : String :=
  let rest := andNot a (p.attrPullup ||| p.attrDeglitch ||| p.attrDebounce)
  let names := [(p.attrPullup, "pullup"), (p.attrDeglitch, "deglitch"), (p.attrDebounce, "debounce")].filterMap
    fun (b, n) => if a &&& b = 0 then none else some n
  String.intercalate "|" (names ++ if rest = 0 ∧ names ≠ [] then [] else [argText rest])

/-- A bus write: `WR <port>, c<n>, <data>`. -/
def writeText (p : Params) (P : WritePort) (c : Nat) (v : Word) : String :=
  "WR " ++ portName (.wo P) ++ ", " ++ ctrlText c ++ ", " ++ wordText p v

/-- A bus read: `RD <port>, c<n>`. -/
def readText (P : Port) (c : Nat) : String := "RD " ++ portName P ++ ", " ++ ctrlText c

/-- A primitive or a collaborator, in the source's call syntax. -/
def callText (name : String) (args : List String) : String := name ++ "(" ++ String.intercalate ", " args ++ ")"

/-- The textual syntax of an instruction (R113). -/
def Instr.text (p : Params) : Instr → String
  | .wOset c v => writeText p .oset c v
  | .wOclr c v => writeText p .oclr c v
  | .wPuen c v => writeText p .puen c v
  | .wPudis c v => writeText p .pudis c v
  | .wFen c v => writeText p .fen c v
  | .wFdis c v => writeText p .fdis c v
  | .wPen c v => writeText p .pen c v
  | .wDen c v => writeText p .den c v
  | .wMden c v => writeText p .mden c v
  | .wMddis c v => writeText p .mddis c v
  | .rOset c => readText (.wo .oset) c
  | .rOclr c => readText (.wo .oclr) c
  | .rPuen c => readText (.wo .puen) c
  | .rPudis c => readText (.wo .pudis) c
  | .rFen c => readText (.wo .fen) c
  | .rFdis c => readText (.wo .fdis) c
  | .rPen c => readText (.wo .pen) c
  | .rDen c => readText (.wo .den) c
  | .rMden c => readText (.wo .mden) c
  | .rMddis c => readText (.wo .mddis) c
  | .rLevel c => readText .level c
  | .setHigh c k => callText "set_high" [ctrlText c, argText k]
  | .setLow c k => callText "set_low" [ctrlText c, argText k]
  | .cfgPullup c k e => callText "configure_pull_up" [ctrlText c, argText k, toString e]
  | .cfgInput c k a => callText "configure_as_input" [ctrlText c, argText k, attrsText p a]
  | .cfgOutput c k l md pu =>
    callText "configure_as_output" [ctrlText c, argText k, argText l, toString md, toString pu]
  | .getLevel c k => callText "get_level" [ctrlText c, argText k]
  | .clockEnable c => callText "clock_enable" [ctrlText c]

end Sys2Proof
end

