-- ==== Sys2Proof/Machine/State.lean ====
section
/-! DEFINITION. The state of R50 as plain data, with the parameters the machine was built with (R11) and the model's own
three counters, the reasons a step can stop, and the state after reset (R41, R260). -/

namespace Sys2Proof.Machine

/-- The port log `S.last[P]` (R38), one ghost word for each of the ten write ports. -/
structure PortLog where
  pen : Word
  den : Word
  fen : Word
  fdis : Word
  oset : Word
  oclr : Word
  mden : Word
  mddis : Word
  pudis : Word
  puen : Word
  deriving DecidableEq, Repr

/-- One controller (R35, R38, R39): the six status fields, the port log, the clock enable. -/
structure Ctrl where
  /-- `pio_en`: bit `i` = 1, the controller has its own control of pin `i` -/
  pioEn : Word
  /-- `out_en`: bit `i` = 1, pin `i` is an output -/
  outEn : Word
  /-- `out_data`: bit `i` = 1, the latched output level of pin `i` is high -/
  outData : Word
  /-- `pu_en`: bit `i` = 1, the internal pull-up of pin `i` is active -/
  puEn : Word
  /-- `filt_en`: bit `i` = 1, the input filter of pin `i` is enabled -/
  filtEn : Word
  /-- `md_en`: bit `i` = 1, multidrive is selected for pin `i` -/
  mdEn : Word
  /-- `last` -/
  last : PortLog
  /-- `clk_en` -/
  clkEn : Bool
  deriving DecidableEq, Repr

/-- `A.pc = (k, j)` (R31): operation `k` of the program, micro-step `j` of that operation. -/
structure Pos where
  k : Nat
  j : Nat
  deriving DecidableEq, Repr

/-- One agent (R31, R33, R34). `tmp` and `ret` are `none` where the spec says so, which is the spec's own state. -/
structure Agent where
  prog : List Op
  pc : Pos
  tmp : Option Word
  ret : Option Word
  deriving DecidableEq, Repr

/-- One entry of `trace` (R40). -/
inductive Event where
  | read (agent c : Nat) (P : Port) (value : Word)
  | write (agent c : Nat) (P : WritePort) (value : Word)
  | clockEnable (agent c : Nat)
  deriving DecidableEq, Repr

/-- The two fault reasons of R231, with the spec's codes 1 and 2. -/
inductive FaultReason where
  /-- 1: an access to a controller whose `clk_en` is false (R88) -/
  | clockNotEnabled
  /-- 2: a word with a 1 at a bit of a pin that does not exist (R130, R198) -/
  | maskOutOfRange
  deriving DecidableEq, Repr

/-- What a fault was raised on (R231): the port of a bus access, or the operation whose entry checks failed. -/
inductive FaultSubject where
  | port (P : Port)
  | operation (i : Instr)
  deriving DecidableEq, Repr

/-- `FaultInfo` (R231): agent, `A.pc`, `c`, port or operation, and the data or offending word if there is one. -/
structure FaultInfo where
  agent : Nat
  pc : Pos
  c : Nat
  subject : FaultSubject
  value : Option Word
  deriving DecidableEq, Repr

/-- Why a step stops the machine. The spec's own faults are recorded in the mark `State.fault` by the step that raises
them, which is a next state (R233); `recorded` is every later step's answer. -/
inductive Fault where
  /-- Raised by `exec` and `step` in a state whose `fault` mark is set: such a state has no further step (R40, R233). Safe. -/
  | recorded (r : FaultReason)
  /-- Raised by `exec` and `step` where `cur` names no agent, which no state that meets `State.inv` does after `step` has
  chosen. Safe. -/
  | noSuchAgent
  /-- Raised by `exec` where the agent's `pc.j` is beyond the operation's micro-steps, which `State.inv` rules out. Safe. -/
  | noSuchMicroStep
  /-- Raised by a `WRO` micro-step where `A.tmp` is `none`: R190 says it never is, and `State.inv` rules it out. Safe. -/
  | tmpMissing
  /-- Raised by the observation `observeRet` of an `A.ret` that is `none`: R34 says a model faults such a read. Safe. -/
  | noResult
  deriving DecidableEq, Repr

/-- Why a step has no meaning. The spec's refusals are recorded in the mark `State.refused` by the step that refuses,
which is a next state (R233); `recorded` is every later step's answer. -/
inductive Refusal where
  /-- Raised by `exec` and `step` in a state whose `refused` mark is set: such a state has no further step (R40, R233). Safe. -/
  | recorded (r : RefusalReason)
  /-- Raised by `step` where every agent has finished its program, and by `stepOf` for an agent that has: the spec gives
  no step there (R31, R249). Safe. -/
  | runEnded
  /-- Raised by an arm of `exec` whose instruction has no meaning yet. No arm does. Safe. -/
  | notModelled (mnemonic : String)
  deriving DecidableEq, Repr

/-- The machine of R50. `par` is no state of the spec but the configuration it is built with: no step changes it (R12).
`cur`, `turns` and `draws` are the model's own bookkeeping (log entries 8 and 9). -/
structure State where
  /-- the parameters (R11) -/
  par : Params
  /-- `ctrl`, the entry of index `c` for controller `c` -/
  ctrl : List Ctrl
  /-- `agent`, the entry of index `a` for agent `a` -/
  agent : List Agent
  /-- the sticky fault mark (R40) -/
  fault : Option (FaultReason × FaultInfo)
  /-- the sticky refusal mark (R40) -/
  refused : Option RefusalReason
  /-- every bus access and clock enable, oldest first (R40) -/
  trace : List Event
  /-- the agent whose step this is -/
  cur : Nat
  /-- how many choices of the schedule have been made (R248) -/
  turns : Nat
  /-- how many words have been drawn (R160, R171) -/
  draws : Nat
  deriving DecidableEq, Repr

/-- Every port log is 0 at reset (R38, R41). -/
def PortLog.reset : PortLog :=
  { pen := 0, den := 0, fen := 0, fdis := 0, oset := 0, oclr := 0, mden := 0, mddis := 0, pudis := 0, puen := 0 }

/-- A controller right after reset (R41, R260). -/
def Ctrl.reset (p : Params) : Ctrl :=
  { pioEn := p.resetPioEn, outEn := p.resetOutEn, outData := p.resetOutData, puEn := p.resetPuEn,
    filtEn := p.resetFiltEn, mdEn := p.resetMdEn, last := PortLog.reset, clkEn := false }

/-- An agent right after reset, with no program: a program is given from outside (R31, R260). -/
def Agent.reset : Agent := { prog := [], pc := { k := 0, j := 0 }, tmp := none, ret := none }

/-- The machine with the parameters `p`, right after reset (R260). -/
def State.resetWith (p : Params) : State :=
  { par := p, ctrl := List.replicate p.nCtrl (Ctrl.reset p), agent := List.replicate p.nAgents Agent.reset,
    fault := none, refused := none, trace := [], cur := 0, turns := 0, draws := 0 }

/-- The machine right after reset (R41, R260), at the default parameters. -/
def State.reset : State := State.resetWith Config.params

end Sys2Proof.Machine
end

