-- ==== Sys2Proof/Machine/Flags.lean ====
section
/-! DEFINITION. The hardware has no flags and no condition codes (R32). What a bus write computes instead stands here: which
status field a port governs, whether it sets or clears (R101, R102), and the port log (R38). -/

namespace Sys2Proof.Machine

/-- The kind of a write port (R101, R102). -/
inductive PortKind where
  | set
  | clear
  deriving DecidableEq, Repr

/-- The six status fields (R35). -/
inductive StatusField where
  | pioEn
  | outEn
  | outData
  | puEn
  | filtEn
  | mdEn
  deriving DecidableEq, Repr

/-- Column "kind" of R101. -/
def portKind : WritePort → PortKind
  | .pen | .den | .fen | .oset | .mden | .puen => .set
  | .fdis | .oclr | .mddis | .pudis => .clear

/-- Column "status field" of R101. -/
def portField : WritePort → StatusField
  | .pen => .pioEn
  | .den => .outEn
  | .oset | .oclr => .outData
  | .puen | .pudis => .puEn
  | .fen | .fdis => .filtEn
  | .mden | .mddis => .mdEn

/-- A set port performs `field | v`, a clear port `field & ~v` (R102). -/
def applyKind : PortKind → Word → Word → Word
  | .set, f, v => f ||| v
  | .clear, f, v => andNot f v

/-- `S.F` -/
def Ctrl.field (ctl : Ctrl) : StatusField → Word
  | .pioEn => ctl.pioEn
  | .outEn => ctl.outEn
  | .outData => ctl.outData
  | .puEn => ctl.puEn
  | .filtEn => ctl.filtEn
  | .mdEn => ctl.mdEn

/-- `S.F <- v` -/
def Ctrl.setField (ctl : Ctrl) (F : StatusField) (v : Word) : Ctrl :=
  match F with
  | .pioEn => { ctl with pioEn := v }
  | .outEn => { ctl with outEn := v }
  | .outData => { ctl with outData := v }
  | .puEn => { ctl with puEn := v }
  | .filtEn => { ctl with filtEn := v }
  | .mdEn => { ctl with mdEn := v }

/-- `S.last[P]` -/
def PortLog.get (l : PortLog) : WritePort → Word
  | .pen => l.pen
  | .den => l.den
  | .fen => l.fen
  | .fdis => l.fdis
  | .oset => l.oset
  | .oclr => l.oclr
  | .mden => l.mden
  | .mddis => l.mddis
  | .pudis => l.pudis
  | .puen => l.puen

/-- `S.last[P] <- v` -/
def PortLog.put (l : PortLog) (P : WritePort) (v : Word) : PortLog :=
  match P with
  | .pen => { l with pen := v }
  | .den => { l with den := v }
  | .fen => { l with fen := v }
  | .fdis => { l with fdis := v }
  | .oset => { l with oset := v }
  | .oclr => { l with oclr := v }
  | .mden => { l with mden := v }
  | .mddis => { l with mddis := v }
  | .pudis => { l with pudis := v }
  | .puen => { l with puen := v }

/-- What a write of `v` to `P` does to its controller once the checks have passed (R130): the field, then the log. -/
def Ctrl.written (ctl : Ctrl) (P : WritePort) (v : Word) : Ctrl :=
  let ctl' := ctl.setField (portField P) (applyKind (portKind P) (ctl.field (portField P)) v)
  { ctl' with last := ctl.last.put P v }

/-- "Register `P` contains `m`": `(S.last[P] & m) == m` (R38). -/
def PortLog.contains (l : PortLog) (P : WritePort) (m : Word) : Bool := l.get P &&& m == m

end Sys2Proof.Machine
end

