-- ==== Sys2Proof/Machine/Ops.lean ====
section
/-! DEFINITION. The shared operations: raising a fault and refusing (R17, R233), one bus write (R130), one bus read (R160,
R171), the clock enable (R196), one micro-step (R190), the entry checks (R198), and issuing the next micro-step of an
operation. There is no exception to take and none to return from (R237, R238). -/

namespace Sys2Proof.Machine

/-- The outcome of a step of this machine. -/
abbrev Result := Host.Outcome State Fault Refusal

/-- How a step can end without its effect. -/
inductive Stop where
  /-- `raise Fault(reason, info)` (R17) -/
  | fault (r : FaultReason) (info : FaultInfo)
  /-- `refuse(reason)` (R17) -/
  | refuse (r : RefusalReason)
  /-- the agent has finished: there is no step (R31, R249) -/
  | ended
  /-- the state is one that no run reaches -/
  | broken (f : Fault)
  deriving DecidableEq, Repr

/-- The code of a fault reason (R231). -/
def faultCode : FaultReason → Nat
  | .clockNotEnabled => 1
  | .maskOutOfRange => 2

/-- The code of a refusal reason (R232). -/
def refusalCode : RefusalReason → Nat
  | .reservedSelector => 16
  | .misaligned => 17
  | .unmappedOffset => 18
  | .readOnlyPort => 19
  | .badWidth => 20
  | .notThisBlock => 21
  | .noSuchController => 22
  | .notExecutable => 23

/-- A state with a fault or a refusal has no further step (R40, R233). -/
def haltedBy (s : State) : Option Result :=
  match s.fault with
  | some (r, _) => some (.fault (.recorded r))
  | none =>
    match s.refused with
    | some r => some (.refused (.recorded r))
    | none => none

/-- The end of a step: a fault or a refusal changes nothing but its mark (R233). -/
def conclude (s : State) : Except Stop State → Result
  | .ok s' => .next s'
  | .error (.fault r info) => .next { s with fault := some (r, info) }
  | .error (.refuse r) => .next { s with refused := some r }
  | .error .ended => .refused .runEnded
  | .error (.broken f) => .fault f

/-- The issuing agent. -/
def curAgent (s : State) : Option Agent := s.agent[s.cur]?

/-- `A.pc` of the issuing agent. -/
def curPos (s : State) : Pos :=
  match curAgent s with
  | some ag => ag.pc
  | none => { k := 0, j := 0 }

/-- Change the issuing agent; no other agent changes. -/
def updAgent (f : Agent → Agent) (s : State) : State := { s with agent := s.agent.modify s.cur f }

/-- Replace controller `c`; no other controller changes (R47). -/
def setCtrl (c : Nat) (ctl : Ctrl) (s : State) : State := { s with ctrl := s.ctrl.set c ctl }

/-- `trace <- trace ++ [e]` (R40). -/
def logEvent (e : Event) (s : State) : State := { s with trace := s.trace ++ [e] }

/-- `A.tmp <- v` (R33). -/
def setTmp (v : Option Word) (s : State) : State := updAgent (fun ag => { ag with tmp := v }) s

/-- `A.ret <- v` (R34). -/
def setRet (v : Word) (s : State) : State := updAgent (fun ag => { ag with ret := some v }) s

/-- The successor position in an operation of `n` micro-steps (R31, R190). -/
def Pos.succ (n : Nat) (p : Pos) : Pos :=
  if p.j + 1 < n then { k := p.k, j := p.j + 1 } else { k := p.k + 1, j := 0 }

/-- `A.pc` moves to its successor (R31). -/
def advance (n : Nat) (s : State) : State := updAgent (fun ag => { ag with pc := ag.pc.succ n }) s

/-- The `FaultInfo` of R231 for the issuing agent. -/
def faultInfo (s : State) (c : Nat) (subject : FaultSubject) (value : Option Word) : FaultInfo :=
  { agent := s.cur, pc := curPos s, c, subject, value }

/-- `draw()`: any `W`-bit word, a fresh one each time (R160, R171; log entry 9). -/
def drawn (s : State) : Word := (Config.draw s.par.width s.draws).toNat

/-- One draw has been made. -/
def countDraw (s : State) : State := { s with draws := s.draws + 1 }

/-- `BusWrite(c, P, v)` (R130), the checks in the order of R236. -/
def busWrite (c : Nat) (P : WritePort) (v : Word) (s : State) : Except Stop State :=
  match s.ctrl[c]? with
  | none => .error (.refuse .noSuchController)
  | some ctl =>
    if ctl.clkEn = false then
      .error (.fault .clockNotEnabled (faultInfo s c (.port (.wo P)) (some v)))
    else if outOfRange s.par v then
      .error (.fault .maskOutOfRange (faultInfo s c (.port (.wo P)) (some v)))
    else
      .ok (logEvent (.write s.cur c P v) (setCtrl c (ctl.written P v) s))

/-- The value a bus read of `P` returns (R160, R171), and the state in which the draw it took, if any, is counted. -/
def readValue (P : Port) (s : State) : Word × State :=
  match P with
  | .wo _ =>
    match s.par.woRead with
    | .zero => (0, s)
    | .draw => (drawn s, countDraw s)
  | .level =>
    match s.par.levelModel with
    | .free => (drawn s, countDraw s)

/-- `BusRead(c, P)` (R160, R171): the word read, and the state after. -/
def busRead (c : Nat) (P : Port) (s : State) : Except Stop (Word × State) :=
  match s.ctrl[c]? with
  | none => .error (.refuse .noSuchController)
  | some ctl =>
    if ctl.clkEn = false then
      .error (.fault .clockNotEnabled (faultInfo s c (.port P) none))
    else
      .ok ((readValue P s).1, logEvent (.read s.cur c P (readValue P s).1) (readValue P s).2)

/-- The clock-enable effect `CLK` (R196). -/
def clockOn (c : Nat) (s : State) : Except Stop State :=
  match s.ctrl[c]? with
  | none => .error (.refuse .noSuchController)
  | some ctl => .ok (logEvent (.clockEnable s.cur c) (setCtrl c { ctl with clkEn := true } s))

/-- The micro-steps of R190, and the single micro-step `rdRet` of a bus read instruction (R31, R160). -/
inductive MicroOp where
  /-- `WR(P, v)`: `BusWrite(c, P, v)` -/
  | wr (P : WritePort) (v : Word)
  /-- `RD(P)`: `A.tmp <- some(BusRead(c, P))` -/
  | rd (P : WritePort)
  /-- `WRO(P, m)`: the "OR into" write -/
  | wro (P : WritePort) (m : Word)
  /-- `RDL(m)`: `A.ret <- BusRead(c, LEVEL) & m` -/
  | rdl (m : Word)
  /-- `A.ret <- BusRead(c, P)` -/
  | rdRet (P : Port)
  /-- `CLK` -/
  | clk
  deriving DecidableEq, Repr

/-- `A.tmp` of the issuing agent. -/
def curTmp (s : State) : Option Word :=
  match curAgent s with
  | some ag => ag.tmp
  | none => none

/-- One micro-step on controller `c` (R190), but for the advance of `A.pc`. -/
def micro (c : Nat) (m : MicroOp) (s : State) : Except Stop State :=
  match m with
  | .wr P v => busWrite c P v s
  | .rd P =>
    match busRead c (.wo P) s with
    | .ok (r, s') => .ok (setTmp (some r) s')
    | .error e => .error e
  | .wro P k =>
    match curTmp s with
    | some t => busWrite c P (t ||| k) (setTmp none s)
    | none => .error (.broken .tmpMissing)
  | .rdl k =>
    match busRead c .level s with
    | .ok (r, s') => .ok (setRet (r &&& k) s')
    | .error e => .error e
  | .rdRet P =>
    match busRead c P s with
    | .ok (r, s') => .ok (setRet r s')
    | .error e => .error e
  | .clk => clockOn c s

/-- The three entry checks of R198, in order: the controller exists, its clock is enabled, the words name existing pins. -/
def entryCheck (i : Instr) (c : Nat) (ws : List Word) (s : State) : Option Stop :=
  match s.ctrl[c]? with
  | none => some (.refuse .noSuchController)
  | some ctl =>
    if ctl.clkEn = false then
      some (.fault .clockNotEnabled (faultInfo s c (.operation i) none))
    else
      match firstOutOfRange s.par ws with
      | some v => some (.fault .maskOutOfRange (faultInfo s c (.operation i) (some v)))
      | none => none

/-- A bus instruction has no checks but those of its access (R130, R160), and `CLOCK_ENABLE` none but its first (R198). -/
def noEntryCheck (_ : State) : Option Stop := none

/-- The micro-step the issuing agent stands at, of an operation with micro-steps `ms` on controller `c`; the entry checks
belong to micro-step 0 (R190, R198). -/
def issueStep (check : State → Option Stop) (c : Nat) (ms : List MicroOp) (s : State) : Except Stop State :=
  match curAgent s with
  | none => .error (.broken .noSuchAgent)
  | some ag =>
    match ms[ag.pc.j]? with
    | none => .error (.broken .noSuchMicroStep)
    | some m =>
      match (if ag.pc.j = 0 then check s else none) with
      | some e => .error e
      | none =>
        match micro c m s with
        | .ok s' => .ok (advance ms.length s')
        | .error e => .error e

/-- Issue the next micro-step of an operation: what every instruction does (R190). -/
def issue (check : State → Option Stop) (c : Nat) (ms : List MicroOp) (s : State) : Result :=
  match haltedBy s with
  | some o => o
  | none => conclude s (issueStep check c ms s)

/-- The observation of `A.ret` of agent `a`: a fault while it is `none` (R34). -/
def observeRet (a : Nat) (s : State) : Host.Outcome Word Fault Refusal :=
  match s.agent[a]? with
  | none => .fault .noSuchAgent
  | some ag =>
    match ag.ret with
    | some v => .next v
    | none => .fault .noResult

/-- The reset event (R261): every controller and every agent as R260 says, all at once; the programs the agents were
given stay (log entry 14). DESIGN CHOICE: the model's own counters go on, so that the draws and the agent choices after a
reset are as free of those before it as R160, R171 and R248 leave them (log entry 22). -/
def resetEvent (s : State) : State :=
  { s with
    ctrl := List.replicate s.par.nCtrl (Ctrl.reset s.par)
    agent := s.agent.map (fun ag => { ag with pc := { k := 0, j := 0 }, tmp := none, ret := none })
    fault := none
    refused := none
    trace := [] }

end Sys2Proof.Machine
end

