-- ==== Sys2Proof/Machine/Primitives.lean ====
section
/-! DEFINITION. The expansions of the five driver primitives and the two collaborators, and their meanings (R190 to R198):
each meaning issues the micro-step of its expansion that the agent stands at. -/

namespace Sys2Proof.Machine

/-- `expand(SET_HIGH)` (R191). -/
def expandSetHigh (mask : Word) : List MicroOp := [.wr .oset mask]

/-- `expand(SET_LOW)` (R192). -/
def expandSetLow (mask : Word) : List MicroOp := [.wr .oclr mask]

/-- `expand(CFG_PULLUP)` (R193): exactly one of the two ports is written. -/
def expandCfgPullup (mask : Word) (enable : Bool) : List MicroOp :=
  if enable then [.wr .puen mask] else [.wr .pudis mask]

/-- `expand(CFG_INPUT)` (R194): the pull-up step, then the filter step. -/
def expandCfgInput (p : Params) (mask attrs : Word) : List MicroOp :=
  (if attrWantsPullup p attrs then [.wr .puen mask] else [.wr .pudis mask])
    ++ (if attrWantsFilter p attrs then [.wr .fen mask] else [.wr .fdis mask])

/-- `expand(CFG_OUTPUT)` (R195): five steps in eight micro-steps, `level` unmasked (R201). -/
def expandCfgOutput (mask level : Word) (multidrive pullup : Bool) : List MicroOp :=
  [.rd .pen, .wro .pen mask, .rd .den, .wro .den mask, .wr .oset level]
    ++ (if multidrive then [.rd .mden, .wro .mden mask] else [.rd .mddis, .wro .mddis mask])
    ++ (if pullup then [.wr .puen mask] else [.wr .pudis mask])

/-- `expand(GET_LEVEL)` (R197). -/
def expandGetLevel (mask : Word) : List MicroOp := [.rdl mask]

/-- `expand(CLOCK_ENABLE)` (R196). -/
def expandClockEnable : List MicroOp := [.clk]

/-- SET_HIGH (R191). -/
def execSetHigh (c : Nat) (mask : Word) (s : State) : Result :=
  issue (entryCheck (.setHigh c mask) c [mask]) c (expandSetHigh mask) s

/-- SET_LOW (R192). -/
def execSetLow (c : Nat) (mask : Word) (s : State) : Result :=
  issue (entryCheck (.setLow c mask) c [mask]) c (expandSetLow mask) s

/-- CFG_PULLUP (R193). -/
def execCfgPullup (c : Nat) (mask : Word) (enable : Bool) (s : State) : Result :=
  issue (entryCheck (.cfgPullup c mask enable) c [mask]) c (expandCfgPullup mask enable) s

/-- CFG_INPUT (R194); `attrs` is not range-checked. -/
def execCfgInput (c : Nat) (mask attrs : Word) (s : State) : Result :=
  issue (entryCheck (.cfgInput c mask attrs) c [mask]) c (expandCfgInput s.par mask attrs) s

/-- CFG_OUTPUT (R195). -/
def execCfgOutput (c : Nat) (mask level : Word) (multidrive pullup : Bool) (s : State) : Result :=
  issue (entryCheck (.cfgOutput c mask level multidrive pullup) c [mask, level]) c
    (expandCfgOutput mask level multidrive pullup) s

/-- GET_LEVEL (R197). -/
def execGetLevel (c : Nat) (mask : Word) (s : State) : Result :=
  issue (entryCheck (.getLevel c mask) c [mask]) c (expandGetLevel mask) s

/-- CLOCK_ENABLE (R196): it needs no clock, and its one check is that the controller exists (R198). -/
def execClockEnable (c : Nat) (s : State) : Result := issue noEntryCheck c expandClockEnable s

end Sys2Proof.Machine
end

