-- ==== Sys2Proof/Machine/ReadPorts.lean ====
section
/-! DEFINITION. The eleven bus read instructions (R161 to R171), each one `BusRead` into `A.ret` (R160). -/

namespace Sys2Proof.Machine

/-- R_OSET (R161): `A.ret <- BusRead(c, OSET)`. -/
def execROset (c : Nat) (s : State) : Result := issue noEntryCheck c [.rdRet (.wo .oset)] s

/-- R_OCLR (R162): `A.ret <- BusRead(c, OCLR)`. -/
def execROclr (c : Nat) (s : State) : Result := issue noEntryCheck c [.rdRet (.wo .oclr)] s

/-- R_PUEN (R163): `A.ret <- BusRead(c, PUEN)`. -/
def execRPuen (c : Nat) (s : State) : Result := issue noEntryCheck c [.rdRet (.wo .puen)] s

/-- R_PUDIS (R164): `A.ret <- BusRead(c, PUDIS)`. -/
def execRPudis (c : Nat) (s : State) : Result := issue noEntryCheck c [.rdRet (.wo .pudis)] s

/-- R_FEN (R165): `A.ret <- BusRead(c, FEN)`. -/
def execRFen (c : Nat) (s : State) : Result := issue noEntryCheck c [.rdRet (.wo .fen)] s

/-- R_FDIS (R166): `A.ret <- BusRead(c, FDIS)`. -/
def execRFdis (c : Nat) (s : State) : Result := issue noEntryCheck c [.rdRet (.wo .fdis)] s

/-- R_PEN (R167): `A.ret <- BusRead(c, PEN)`. -/
def execRPen (c : Nat) (s : State) : Result := issue noEntryCheck c [.rdRet (.wo .pen)] s

/-- R_DEN (R168): `A.ret <- BusRead(c, DEN)`. -/
def execRDen (c : Nat) (s : State) : Result := issue noEntryCheck c [.rdRet (.wo .den)] s

/-- R_MDEN (R169): `A.ret <- BusRead(c, MDEN)`. -/
def execRMden (c : Nat) (s : State) : Result := issue noEntryCheck c [.rdRet (.wo .mden)] s

/-- R_MDDIS (R170): `A.ret <- BusRead(c, MDDIS)`. -/
def execRMddis (c : Nat) (s : State) : Result := issue noEntryCheck c [.rdRet (.wo .mddis)] s

/-- R_LEVEL (R171): `A.ret <- BusRead(c, LEVEL)`. -/
def execRLevel (c : Nat) (s : State) : Result := issue noEntryCheck c [.rdRet .level] s

end Sys2Proof.Machine
end

