-- ==== Sys2Proof/Machine/WritePorts.lean ====
section
/-! DEFINITION. The ten bus write instructions (R131 to R140), each one `BusWrite` (R130). -/

namespace Sys2Proof.Machine

/-- W_OSET (R131): `S.out_data <- S.out_data | data; S.last[OSET] <- data`. -/
def execWOset (c : Nat) (data : Word) (s : State) : Result := issue noEntryCheck c [.wr .oset data] s

/-- W_OCLR (R132): `S.out_data <- S.out_data & ~data; S.last[OCLR] <- data`. -/
def execWOclr (c : Nat) (data : Word) (s : State) : Result := issue noEntryCheck c [.wr .oclr data] s

/-- W_PUEN (R133): `S.pu_en <- S.pu_en | data; S.last[PUEN] <- data`. -/
def execWPuen (c : Nat) (data : Word) (s : State) : Result := issue noEntryCheck c [.wr .puen data] s

/-- W_PUDIS (R134): `S.pu_en <- S.pu_en & ~data; S.last[PUDIS] <- data`. -/
def execWPudis (c : Nat) (data : Word) (s : State) : Result := issue noEntryCheck c [.wr .pudis data] s

/-- W_FEN (R135): `S.filt_en <- S.filt_en | data; S.last[FEN] <- data`. -/
def execWFen (c : Nat) (data : Word) (s : State) : Result := issue noEntryCheck c [.wr .fen data] s

/-- W_FDIS (R136): `S.filt_en <- S.filt_en & ~data; S.last[FDIS] <- data`. -/
def execWFdis (c : Nat) (data : Word) (s : State) : Result := issue noEntryCheck c [.wr .fdis data] s

/-- W_PEN (R137): `S.pio_en <- S.pio_en | data; S.last[PEN] <- data`. -/
def execWPen (c : Nat) (data : Word) (s : State) : Result := issue noEntryCheck c [.wr .pen data] s

/-- W_DEN (R138): `S.out_en <- S.out_en | data; S.last[DEN] <- data`. -/
def execWDen (c : Nat) (data : Word) (s : State) : Result := issue noEntryCheck c [.wr .den data] s

/-- W_MDEN (R139): `S.md_en <- S.md_en | data; S.last[MDEN] <- data`. -/
def execWMden (c : Nat) (data : Word) (s : State) : Result := issue noEntryCheck c [.wr .mden data] s

/-- W_MDDIS (R140): `S.md_en <- S.md_en & ~data; S.last[MDDIS] <- data`. -/
def execWMddis (c : Nat) (data : Word) (s : State) : Result := issue noEntryCheck c [.wr .mddis data] s

end Sys2Proof.Machine
end

