-- ==== Sys2Proof/Machine/Dispatch.lean ====
section
/-! DEFINITION. The dispatch: one arm per operation of the opcode table, each a direct call of its meaning. `exec i s` is
the next micro-step of `i`, issued by the agent `s.cur` from the micro-step it stands at (R190). -/

namespace Sys2Proof.Machine

def exec (i : Instr) (s : State) : Host.Outcome State Fault Refusal :=
  match i with
  | .wOset c data => Sys2Proof.Machine.execWOset c data s
  | .wOclr c data => Sys2Proof.Machine.execWOclr c data s
  | .wPuen c data => Sys2Proof.Machine.execWPuen c data s
  | .wPudis c data => Sys2Proof.Machine.execWPudis c data s
  | .wFen c data => Sys2Proof.Machine.execWFen c data s
  | .wFdis c data => Sys2Proof.Machine.execWFdis c data s
  | .wPen c data => Sys2Proof.Machine.execWPen c data s
  | .wDen c data => Sys2Proof.Machine.execWDen c data s
  | .wMden c data => Sys2Proof.Machine.execWMden c data s
  | .wMddis c data => Sys2Proof.Machine.execWMddis c data s
  | .rOset c => Sys2Proof.Machine.execROset c s
  | .rOclr c => Sys2Proof.Machine.execROclr c s
  | .rPuen c => Sys2Proof.Machine.execRPuen c s
  | .rPudis c => Sys2Proof.Machine.execRPudis c s
  | .rFen c => Sys2Proof.Machine.execRFen c s
  | .rFdis c => Sys2Proof.Machine.execRFdis c s
  | .rPen c => Sys2Proof.Machine.execRPen c s
  | .rDen c => Sys2Proof.Machine.execRDen c s
  | .rMden c => Sys2Proof.Machine.execRMden c s
  | .rMddis c => Sys2Proof.Machine.execRMddis c s
  | .rLevel c => Sys2Proof.Machine.execRLevel c s
  | .setHigh c mask => Sys2Proof.Machine.execSetHigh c mask s
  | .setLow c mask => Sys2Proof.Machine.execSetLow c mask s
  | .cfgPullup c mask enable => Sys2Proof.Machine.execCfgPullup c mask enable s
  | .cfgInput c mask attrs => Sys2Proof.Machine.execCfgInput c mask attrs s
  | .cfgOutput c mask level multidrive pullup => Sys2Proof.Machine.execCfgOutput c mask level multidrive pullup s
  | .getLevel c mask => Sys2Proof.Machine.execGetLevel c mask s
  | .clockEnable c => Sys2Proof.Machine.execClockEnable c s

end Sys2Proof.Machine
end

