-- ==== Sys2Proof/Machine/Fetch.lean ====
section
/-! DEFINITION. The agents' programs (R31): which agents have not finished, the free choice among them (R248), reading and
decoding an agent's current operation, and placing programs from outside. -/

namespace Sys2Proof.Machine

/-- The agent has not finished: `k < length(A.prog)` (R31). -/
def unfinished (ag : Agent) : Bool := decide (ag.pc.k < ag.prog.length)

/-- The indices, counting from `a`, of the agents that have not finished. -/
def unfinishedFrom : Nat → List Agent → List Nat
  | _, [] => []
  | a, ag :: ags => if unfinished ag then a :: unfinishedFrom (a + 1) ags else unfinishedFrom (a + 1) ags

/-- The agents that may take the next step (R248). -/
def runnable (s : State) : List Nat := unfinishedFrom 0 s.agent

/-- The choice that the number `n` stands for. Where only one can be chosen there is nothing to choose. -/
def pick (n : Nat) : List Nat → Option Nat
  | [] => none
  | [a] => some a
  | a :: b :: rest => some ((a :: b :: rest).getD (n % (a :: b :: rest).length) a)

/-- The agent that takes the next step: any that has not finished (R82, R248; log entry 8). -/
def chooseAgent (s : State) : Option Nat := pick (Config.schedule s.turns) (runnable s)

/-- The step belongs to agent `a` (R236), and one choice of the schedule has been made. -/
def issueTo (a : Nat) (s : State) : State := { s with cur := a, turns := s.turns + 1 }

/-- The issuing agent's current operation, read from its program and decoded (R31, R104, R111). -/
def fetch (s : State) : Except Stop Instr :=
  match curAgent s with
  | none => .error (.broken .noSuchAgent)
  | some ag =>
    match ag.prog[ag.pc.k]? with
    | none => .error .ended
    | some op =>
      match decode s.par.regOffset op with
      | .ok i => .ok i
      | .error r => .error (.refuse r)

/-- The programs of the agents, given from outside (R31): program `a` to agent `a`, each from its start. -/
def loadPrograms (progs : List (List Op)) (s : State) : State :=
  { s with agent := (List.zipWith (fun ag prog => { ag with prog := prog, pc := { k := 0, j := 0 } }) s.agent progs)
      ++ s.agent.drop progs.length }

/-- Put `op` at the agent's current operation, at micro-step 0. -/
def placeOp (op : Op) (ag : Agent) : Agent :=
  { ag with prog := ag.prog.take ag.pc.k ++ op :: ag.prog.drop (ag.pc.k + 1)
            pc := { k := (ag.prog.take ag.pc.k).length, j := 0 } }

/-- Place `op` where the next step fetches: at the agent that step chooses, or at agent 0 where all have finished; a marked
machine fetches nothing, so the marks are taken away (log entry 14). -/
def placeNext (op : Op) (s : State) : State :=
  { s with agent := s.agent.modify ((chooseAgent s).getD 0) (placeOp op), fault := none, refused := none }

end Sys2Proof.Machine
end

