-- ==== Sys2Proof/Machine/Step.lean ====
section
/-! DEFINITION. One step of the machine: one micro-step of one agent (R190, R236, R248). -/

namespace Sys2Proof.Machine

/-- The step of agent `a`, where the free choice of R248 falls on it. -/
def stepOf (a : Nat) (s : State) : Result :=
  match haltedBy s with
  | some o => o
  | none =>
    match fetch (issueTo a s) with
    | .ok i => exec i (issueTo a s)
    | .error e => conclude (issueTo a s) (.error e)

/-- The step of the agent the schedule chooses. -/
def step (s : State) : Host.Outcome State Fault Refusal :=
  match haltedBy s with
  | some o => o
  | none =>
    match chooseAgent s with
    | none => .refused .runEnded
    | some a => stepOf a s

/-- The state with the selector `w` and operands of zero stored where `step` fetches its next operation. -/
def State.withFetchWord (s : State) (nbits w : Nat) : State :=
  match tableOp nbits w with
  | none => s
  | some op => placeNext op s

end Sys2Proof.Machine
end

