-- ==== Sys2Proof/Machine/Bus.lean ====
section
/-! DEFINITION. The bus address space (R70 to R74, R85): address decode, and the accesses `MemRead` and `MemWrite` of R16,
which are `BusRead` and `BusWrite` by address, issued by the current agent outside its program (log entry 12). -/

namespace Sys2Proof.Machine

/-- The first controller, counting from `c`, whose block of `size` bytes holds the address, and the offset (R72). -/
def blockFrom (size addr : Nat) : Nat → List Nat → Option (Nat × Nat)
  | _, [] => none
  | c, b :: bs => if b ≤ addr ∧ addr < b + size then some (c, addr - b) else blockFrom size addr (c + 1) bs

/-- The controller an address belongs to and its offset there (R72). -/
def blockOf (p : Params) (addr : Nat) : Option (Nat × Nat) := blockFrom p.blockSize addr 0 p.ctrlBase

/-- The controller and port that an access of `bytes` bytes at `addr` reaches, or why it is refused (R72 to R74; the
order of the checks: log entry 11). -/
def busAddress (p : Params) (addr bytes : Nat) : Except RefusalReason (Nat × Port) :=
  match blockOf p addr with
  | none => .error .notThisBlock
  | some (c, off) =>
    if 8 * bytes ≠ p.width then .error .badWidth
    else if off % 4 ≠ 0 then .error .misaligned
    else
      match portAt p.regOffset off with
      | none => .error .unmappedOffset
      | some P => .ok (c, P)

/-- `MemWrite(addr, bytes, v)` (R16). -/
def memWrite (addr bytes : Nat) (v : Word) (s : State) : Except Stop State :=
  match busAddress s.par addr bytes with
  | .error r => .error (.refuse r)
  | .ok (_, .level) => .error (.refuse .readOnlyPort)
  | .ok (c, .wo P) => busWrite c P v s

/-- `MemRead(addr, bytes)` (R16): the word read, and the state after. -/
def memRead (addr bytes : Nat) (s : State) : Except Stop (Word × State) :=
  match busAddress s.par addr bytes with
  | .error r => .error (.refuse r)
  | .ok (c, P) => busRead c P s

/-- An instruction fetch from a bus address: refused, inside a block (R85) and outside every block (R72). -/
def memFetch (addr : Nat) (s : State) : RefusalReason :=
  match blockOf s.par addr with
  | none => .notThisBlock
  | some _ => .notExecutable

/-- A bus write by address as a step of the machine: it ends as every step does (R233). -/
def memWriteStep (addr bytes : Nat) (v : Word) (s : State) : Result :=
  match haltedBy s with
  | some o => o
  | none => conclude s (memWrite addr bytes v s)

/-- A bus read by address as a step of the machine; the word read goes to `A.ret`, as a bus read instruction's does. -/
def memReadStep (addr bytes : Nat) (s : State) : Result :=
  match haltedBy s with
  | some o => o
  | none =>
    conclude s (match memRead addr bytes s with
      | .ok (r, s') => .ok (setRet r s')
      | .error e => .error e)

/-- An instruction fetch by address as a step of the machine (R85). -/
def memFetchStep (addr : Nat) (s : State) : Result :=
  match haltedBy s with
  | some o => o
  | none => conclude s (.error (.refuse (memFetch addr s)))

end Sys2Proof.Machine
end

