-- ==== Sys2Proof/Machine/Expansion.lean ====
section
/-! DEFINITION. `expand(op)` (R190) of every operation, as one function: what the statements about whole operations and
about the invariant count micro-steps with. A bus instruction has exactly one micro-step (R31). -/

namespace Sys2Proof.Machine

/-- `expand(op)` (R190 to R197); a bus read or bus write is its one access (R31). -/
def expand (p : Params) : Instr → List MicroOp
  | .wOset _ v => [.wr .oset v]
  | .wOclr _ v => [.wr .oclr v]
  | .wPuen _ v => [.wr .puen v]
  | .wPudis _ v => [.wr .pudis v]
  | .wFen _ v => [.wr .fen v]
  | .wFdis _ v => [.wr .fdis v]
  | .wPen _ v => [.wr .pen v]
  | .wDen _ v => [.wr .den v]
  | .wMden _ v => [.wr .mden v]
  | .wMddis _ v => [.wr .mddis v]
  | .rOset _ => [.rdRet (.wo .oset)]
  | .rOclr _ => [.rdRet (.wo .oclr)]
  | .rPuen _ => [.rdRet (.wo .puen)]
  | .rPudis _ => [.rdRet (.wo .pudis)]
  | .rFen _ => [.rdRet (.wo .fen)]
  | .rFdis _ => [.rdRet (.wo .fdis)]
  | .rPen _ => [.rdRet (.wo .pen)]
  | .rDen _ => [.rdRet (.wo .den)]
  | .rMden _ => [.rdRet (.wo .mden)]
  | .rMddis _ => [.rdRet (.wo .mddis)]
  | .rLevel _ => [.rdRet .level]
  | .setHigh _ mask => expandSetHigh mask
  | .setLow _ mask => expandSetLow mask
  | .cfgPullup _ mask enable => expandCfgPullup mask enable
  | .cfgInput _ mask attrs => expandCfgInput p mask attrs
  | .cfgOutput _ mask level multidrive pullup => expandCfgOutput mask level multidrive pullup
  | .getLevel _ mask => expandGetLevel mask
  | .clockEnable _ => expandClockEnable

/-- The checks of an operation's micro-step 0: those of R198 for the primitives and `GET_LEVEL`, none beside the access's
own for the others. -/
def checkOf (i : Instr) : State → Option Stop :=
  match i with
  | .setHigh .. | .setLow .. | .cfgPullup .. | .cfgInput .. | .cfgOutput .. | .getLevel .. =>
    entryCheck i i.ctrlIndex i.pinWords
  | _ => noEntryCheck

end Sys2Proof.Machine
end

