-- ==== Sys2Proof/Machine/Pad.lean ====
section
/-! DEFINITION. What the controller presents to each pad (R43 to R45): a pure function of the status fields. -/

namespace Sys2Proof.Machine

/-- `drive` (R43, R44). -/
inductive Drive where
  | low
  | high
  /-- the controller does not drive the pad -/
  | released
  /-- the spec does not say what drives the pad -/
  | unowned
  deriving DecidableEq, Repr

/-- The pad record (R43). -/
structure Pad where
  drive : Drive
  pull : Bool
  filter : Bool
  deriving DecidableEq, Repr

/-- `drive(c, i)` (R44; log entry 16). -/
def padDrive (ctl : Ctrl) (i : Nat) : Drive :=
  if ctl.pioEn.testBit i = false then .unowned
  else if ctl.outEn.testBit i = false then .released
  else if ctl.mdEn.testBit i then (if ctl.outData.testBit i then .released else .low)
  else if ctl.outData.testBit i then .high
  else .low

/-- The pad record of pin `i` from the status fields (R44, R45). -/
def ctrlPad (ctl : Ctrl) (i : Nat) : Pad :=
  { drive := padDrive ctl i, pull := ctl.puEn.testBit i, filter := ctl.filtEn.testBit i }

/-- `pad(c, i)`, which exists for a pin `i < N_PINS` of an existing controller only (R42, R43). -/
def pad (s : State) (c i : Nat) : Option Pad :=
  if i < s.par.nPins then s.ctrl[c]?.map (fun ctl => ctrlPad ctl i) else none

end Sys2Proof.Machine
end

