-- ==== Sys2Proof/Safety.lean ====
section
/-! DEFINITION. The terms in which claims are stated: a machine that has not stopped, an agent standing at a micro-step, the
state an access leaves, a run's good end (R249), the invariants every step keeps, and what is left of a run (R205). -/

namespace Sys2Proof.Machine

/-- No mark is set (R40). -/
def State.running (s : State) : Prop := s.fault = none ∧ s.refused = none

/-- The machine runs, and the issuing agent is `ag`, at micro-step `j` of its operation. -/
def State.standsAt (s : State) (ag : Agent) (j : Nat) : Prop :=
  s.running ∧ s.agent[s.cur]? = some ag ∧ ag.pc.j = j

/-- Controller `c` exists, holds `ctl`, and its clock is enabled. -/
def State.clocked (s : State) (c : Nat) (ctl : Ctrl) : Prop := s.ctrl[c]? = some ctl ∧ ctl.clkEn = true

/-- Every bit of `v` is the bit of a pin that exists (R130). -/
def pinsExist (p : Params) (v : Word) : Prop := andNot v (pinsMask p) = 0

/-- The drive of an output that the controller has, by its latched level and its multidrive bit (R44, the last two rows). -/
def outputDrive (level multidrive : Bool) : Drive :=
  if level = false then .low else if multidrive then .released else .high

/-- The position after the last micro-step of an operation (R31). -/
def Pos.nextOp (p : Pos) : Pos := { k := p.k + 1, j := 0 }

/-- The position after a micro-step that is not the last (R190). -/
def Pos.nextMicro (p : Pos) : Pos := { k := p.k, j := p.j + 1 }

/-- `s` after an access: controller `c` is `ctl`, the issuing agent is `ag`, the events are appended to the trace, and
everything else is as in `s`. -/
def State.after (s : State) (c : Nat) (ctl : Ctrl) (ag : Agent) (es : List Event) : State :=
  { s with ctrl := s.ctrl.set c ctl, agent := s.agent.set s.cur ag, trace := s.trace ++ es }

/-- `s` with the fault mark set and nothing else changed (R233). -/
def State.faulted (s : State) (r : FaultReason) (info : FaultInfo) : State := { s with fault := some (r, info) }

/-- `s` with the refusal mark set and nothing else changed (R233). -/
def State.refusedFor (s : State) (r : RefusalReason) : State := { s with refused := some r }

/-- A run ends well: every agent at the end of its program, no fault, no refusal (R249). -/
def State.endsWell (s : State) : Bool :=
  s.agent.all (fun ag => decide (ag.pc = { k := ag.prog.length, j := 0 })) && s.fault.isNone && s.refused.isNone

/-- `n` micro-steps of one operation, one after another with no other agent's between them. -/
def execSteps : Nat → Instr → State → Result
  | 0, _, s => .next s
  | n + 1, i, s =>
    match exec i s with
    | .next s' => execSteps n i s'
    | .fault r => .fault r
    | .refused r => .refused r

/-- A whole operation, uninterrupted: all its micro-steps. -/
def execWhole (i : Instr) (s : State) : Result := execSteps (expand s.par i).length i s

/-- `A.tmp` holds a value exactly where the next micro-step is a `WRO` (R33). -/
def MicroOp.usesTmp : MicroOp → Bool
  | .wro _ _ => true
  | _ => false

/-- The agent stands at a micro-step its current operation has, or at the end of its program, and its `tmp` holds a value
exactly where the micro-step it stands at uses it (R31, R33, R190). -/
def Agent.ok (p : Params) (ag : Agent) : Bool :=
  match ag.prog[ag.pc.k]? with
  | none => decide (ag.pc.k = ag.prog.length) && decide (ag.pc.j = 0) && ag.tmp.isNone
  | some op =>
    match decode p.regOffset op with
    | .error _ => decide (ag.pc.j = 0) && ag.tmp.isNone
    | .ok i =>
      match (expand p i)[ag.pc.j]? with
      | none => false
      | some m => ag.tmp.isSome == m.usesTmp

/-- The bits of `v` and `w` at pins that do not exist are the same. -/
def sameBeyondPins (p : Params) (v w : Word) : Bool := andNot (v ^^^ w) (pinsMask p) == 0

/-- The bits of pins that do not exist have their reset value in every status field and every port log (R42). -/
def Ctrl.ok (p : Params) (ctl : Ctrl) : Bool :=
  [StatusField.pioEn, .outEn, .outData, .puEn, .filtEn, .mdEn].all
      (fun F => sameBeyondPins p (ctl.field F) ((Ctrl.reset p).field F))
    && [WritePort.pen, .den, .fen, .fdis, .oset, .oclr, .mden, .mddis, .pudis, .puen].all
      (fun P => sameBeyondPins p (ctl.last.get P) 0)

/-- The invariant: the parameters meet R11, R72 and R103, there is one controller and one agent for each index, and every
controller and every agent is in order (R31, R33, R42, R50). -/
def State.inv (s : State) : Bool :=
  s.par.wf && decide (s.ctrl.length = s.par.nCtrl) && decide (s.agent.length = s.par.nAgents)
    && s.ctrl.all (Ctrl.ok s.par) && s.agent.all (Agent.ok s.par)

/-! ### The width of the words (R14) -/

/-- The status fields and the port logs of a controller. -/
def Ctrl.words (ctl : Ctrl) : List Word :=
  [StatusField.pioEn, .outEn, .outData, .puEn, .filtEn, .mdEn].map ctl.field
    ++ [WritePort.pen, .den, .fen, .fdis, .oset, .oclr, .mden, .mddis, .pudis, .puen].map ctl.last.get

/-- `tmp`, `ret` and the operand words of the program. -/
def Agent.words (ag : Agent) : List Word :=
  ag.tmp.toList ++ ag.ret.toList ++ ag.prog.flatMap (fun op => op.operands.words)

/-- The word of a trace entry, if it has one. -/
def Event.words : Event → List Word
  | .read _ _ _ v => [v]
  | .write _ _ _ v => [v]
  | .clockEnable _ _ => []

/-- The words a fault recorded. -/
def FaultInfo.words (info : FaultInfo) : List Word :=
  info.value.toList ++ (match info.subject with | .port _ => [] | .operation i => i.words)

/-- Every word of the state but the parameters', of which `Params.wf` speaks. -/
def State.words (s : State) : List Word :=
  s.ctrl.flatMap Ctrl.words ++ s.agent.flatMap Agent.words ++ s.trace.flatMap Event.words
    ++ s.fault.toList.flatMap (fun f => f.2.words)

/-- Every word of the state is `W` bits wide (R11, R14). -/
def State.wordsFit (s : State) : Bool := s.words.all (fits s.par)

/-! ### What is left of a run (R205) -/

/-- How many steps an element of a program takes: its micro-steps, or the one step in which it is refused. -/
def opSteps (p : Params) (op : Op) : Nat :=
  match decode p.regOffset op with
  | .ok i => (expand p i).length
  | .error _ => 1

/-- How many steps an agent has left (R205). -/
def agentSteps (p : Params) (ag : Agent) : Nat := ((ag.prog.drop ag.pc.k).map (opSteps p)).sum - ag.pc.j

/-- How many steps a run has left, if none faults or refuses (R205). -/
def State.stepsLeft (s : State) : Nat := (s.agent.map (agentSteps s.par)).sum

end Sys2Proof.Machine
end

