-- ==== Sys2Proof/Certificates/Slice0/Obligations.lean ====
section
/-! DEFINITION. The statements for the provers, from the spec's numbered rules. `standsAt`, `clocked`, `after`, `faulted` and
the other terms they use are Safety.lean's. -/

open Sys2Proof Sys2Proof.Machine

/-! ### Terms of the statements below -/

/-- The exceptions that R130 to R140 give the bus write `i` of `data` to port `P` of controller `c`: with the clock not
enabled the step sets the mark `ClockNotEnabled` and changes nothing else, whatever the data; with the clock enabled and a
data bit at or above `N_PINS` it sets `MaskOutOfRange` and changes nothing else. -/
def Sys2Proof.Machine.WriteFaults (i : Instr) (c : Nat) (P : WritePort) (data : Word) : Prop :=
  ∀ (s : State) (ag : Agent) (ctl : Ctrl), s.standsAt ag 0 → s.ctrl[c]? = some ctl →
    (ctl.clkEn = false →
      exec i s = .next (s.faulted .clockNotEnabled
        { agent := s.cur, pc := ag.pc, c := c, subject := .port (.wo P), value := some data })) ∧
    (ctl.clkEn = true → ¬ pinsExist s.par data →
      exec i s = .next (s.faulted .maskOutOfRange
        { agent := s.cur, pc := ag.pc, c := c, subject := .port (.wo P), value := some data }))

/-- The exception that R160 to R171 give the bus read `i` of port `P` of controller `c`. -/
def Sys2Proof.Machine.ReadFaults (i : Instr) (c : Nat) (P : Port) : Prop :=
  ∀ (s : State) (ag : Agent) (ctl : Ctrl), s.standsAt ag 0 → s.ctrl[c]? = some ctl → ctl.clkEn = false →
    exec i s = .next (s.faulted .clockNotEnabled
      { agent := s.cur, pc := ag.pc, c := c, subject := .port P, value := none })

/-- The three entry checks of R198, in their order, for an operation `i`: in micro-step 0 each failing check sets its mark
and changes nothing else. The second is stated for every operand, the third for the first word among `mask` and `level`
that has a bit at or above `N_PINS` (that the recorded word is the first one is the model's reading, log entry 19). -/
def Sys2Proof.Machine.EntryChecksFail (i : Instr) : Prop :=
  ∀ (s : State) (ag : Agent), s.standsAt ag 0 →
    (s.ctrl[i.ctrlIndex]? = none → exec i s = .next (s.refusedFor .noSuchController)) ∧
    (∀ ctl, s.ctrl[i.ctrlIndex]? = some ctl → ctl.clkEn = false →
      exec i s = .next (s.faulted .clockNotEnabled
        { agent := s.cur, pc := ag.pc, c := i.ctrlIndex, subject := .operation i, value := none })) ∧
    (∀ ctl before v rest, s.clocked i.ctrlIndex ctl → i.pinWords = before ++ v :: rest →
      (∀ w ∈ before, pinsExist s.par w) → ¬ pinsExist s.par v →
      exec i s = .next (s.faulted .maskOutOfRange
        { agent := s.cur, pc := ag.pc, c := i.ctrlIndex, subject := .operation i, value := some v }))

/-- The operations whose micro-step 0 runs the three checks of R198. -/
def Sys2Proof.Machine.checkedOnEntry : Instr → Bool
  | .setHigh .. | .setLow .. | .cfgPullup .. | .cfgInput .. | .cfgOutput .. | .getLevel .. => true
  | _ => false

/-- The ports of the "OR into" read-modify-write pairs of `CFG_OUTPUT` and their micro-steps (R195). -/
def Sys2Proof.Machine.orPort (multidrive : Bool) : Nat → Option WritePort
  | 0 | 1 => some .pen
  | 2 | 3 => some .den
  | 5 | 6 => some (if multidrive then .mden else .mddis)
  | _ => none

/-! ### Encoding -/

/-- R105, R107: selectors written out bit by bit from the tables, at the default offsets. -/
def Obligations.TableSelectorsDecode : Prop :=
  decodeSel Config.regOffset 0b0100000000110000#16 = .ok (.bw .oset) ∧
  decodeSel Config.regOffset 0b0100000001010100#16 = .ok (.bw .mddis) ∧
  decodeSel Config.regOffset 0b0000000001100100#16 = .ok (.br (.wo .puen)) ∧
  decodeSel Config.regOffset 0b0000000000111100#16 = .ok (.br .level) ∧
  decodeSel Config.regOffset 0b1000000000000100#16 = .ok .cfgOutput ∧
  decodeSel Config.regOffset 0b1000000000010000#16 = .ok .clockEnable

/-- R104 to R108: decoding the encoding of any instruction, with any operands, gives it back, at any offsets that meet
R103. -/
def Obligations.DecodeOfEncodeIsTheInstruction : Prop :=
  ∀ (m : RegOffsets) (i : Instr), m.wf = true → decode m (encode m i) = .ok i

/-- R111: a selector that decodes to an operation is that operation's selector, so each operation has one selector. -/
def Obligations.DecodedSelectorIsTheOperationsOwn : Prop :=
  ∀ (m : RegOffsets) (sel : Sel) (oc : OpCode), decodeSel m sel = .ok oc → selectorOf m oc = sel

/-- R110: every selector that no operation has is refused, with the reasons R110 lists, R111 ordering them; and a step at
such a selector sets the mark and changes nothing else. -/
def Obligations.UnlistedSelectorsAreRefused : Prop :=
  ∀ (m : RegOffsets) (sel : Sel),
    ((∀ oc, selectorOf m oc ≠ sel) → ∃ r, decodeSel m sel = .error r) ∧
    (sel.extractLsb' 14 2 = 0b11#2 → decodeSel m sel = .error .reservedSelector) ∧
    (sel.extractLsb' 15 1 = 0#1 → sel.extractLsb' 12 2 ≠ 0b00#2 → decodeSel m sel = .error .reservedSelector) ∧
    (sel.extractLsb' 15 1 = 0#1 → sel.extractLsb' 12 2 = 0b00#2 → sel.extractLsb' 0 2 ≠ 0b00#2 →
      decodeSel m sel = .error .misaligned) ∧
    (sel.extractLsb' 15 1 = 0#1 → sel.extractLsb' 12 2 = 0b00#2 → sel.extractLsb' 0 2 = 0b00#2 →
      (∀ P, portOffset m P ≠ sel.extractLsb' 0 12) → decodeSel m sel = .error .unmappedOffset) ∧
    (sel.extractLsb' 14 2 = 0b10#2 → (sel.extractLsb' 8 6 ≠ 0#6 ∨
        sel.extractLsb' 0 8 ∉ [0x00#8, 0x01#8, 0x02#8, 0x03#8, 0x04#8, 0x05#8, 0x10#8]) →
      decodeSel m sel = .error .reservedSelector) ∧
    (∀ (s : State) (a : Nat) (ag : Agent) (o : Operands), s.running → s.par.regOffset = m → s.agent[a]? = some ag →
      ag.prog[ag.pc.k]? = some { sel := sel, operands := o } → (∀ oc, selectorOf m oc ≠ sel) →
      ∃ r, decodeSel m sel = .error r ∧ stepOf a s = .next ((issueTo a s).refusedFor r))

/-- R109: a bus write selector that names the level port is refused with `ReadOnlyPort`, `0x403C` at the defaults. -/
def Obligations.LevelPortWriteIsRefused : Prop :=
  (∀ m : RegOffsets, m.wf = true → decodeSel m (0x4000#16 ||| m.level.setWidth 16) = .error .readOnlyPort) ∧
  decodeSel Config.regOffset 0x403C#16 = .error .readOnlyPort

/-! ### The step -/

/-- R31, R104, R190: where the chosen agent's current operation decodes to `i`, the step is `exec` of `i`, with that agent
made the issuing one and one choice counted. -/
def Obligations.StepRunsTheDecodedOperation : Prop :=
  ∀ (s : State) (a : Nat) (ag : Agent) (op : Op) (i : Instr), s.running → chooseAgent s = some a →
    s.agent[a]? = some ag → ag.prog[ag.pc.k]? = some op → decode s.par.regOffset op = .ok i →
    step s = exec i { s with cur := a, turns := s.turns + 1 } ∧ stepOf a s = step s

/-- R233, R234: where the decoder refuses the chosen agent's operation, the step records the reason and changes nothing
else but whose step it was. -/
def Obligations.StepRecordsADecodeRefusal : Prop :=
  ∀ (s : State) (a : Nat) (ag : Agent) (op : Op) (r : RefusalReason), s.running → chooseAgent s = some a →
    s.agent[a]? = some ag → ag.prog[ag.pc.k]? = some op → decode s.par.regOffset op = .error r →
    step s = .next { s with cur := a, turns := s.turns + 1, refused := some r }

/-- R40, R233: a state with a fault or a refusal has no further step, of any agent and of any operation, and it is not a
good end. -/
def Obligations.MarkedMachineHasNoStep : Prop :=
  ∀ s : State, ¬ s.running →
    s.endsWell = false ∧ ∀ (t : State) (a : Nat) (i : Instr), step s ≠ .next t ∧ stepOf a s ≠ .next t ∧ exec i s ≠ .next t

/-- R82, R248: the agent that moves is one that has not finished, there is one unless all have finished, and every agent
that has not finished is the choice of some number. -/
def Obligations.AnyUnfinishedAgentMayMove : Prop :=
  ∀ s : State,
    (∀ a, chooseAgent s = some a → ∃ ag, s.agent[a]? = some ag ∧ ag.pc.k < ag.prog.length) ∧
    (chooseAgent s = none ↔ ∀ ag ∈ s.agent, ag.prog.length ≤ ag.pc.k) ∧
    (∀ (a : Nat) (ag : Agent), s.agent[a]? = some ag → ag.pc.k < ag.prog.length → ∃ n, pick n (runnable s) = some a)

/-- R205, R248: in a running machine that meets the invariant no agent that has not finished is without a step. -/
def Obligations.UnfinishedAgentHasAStep : Prop :=
  ∀ (s : State) (a : Nat) (ag : Agent), s.inv = true → s.running → s.agent[a]? = some ag →
    ag.pc.k < ag.prog.length → (∃ t, stepOf a s = .next t) ∧ ∃ t, step s = .next t

/-- R205: a step sets a mark, or uses up exactly one of the steps the run has left. -/
def Obligations.EveryStepUsesUpOneStep : Prop :=
  ∀ (s t : State) (a : Nat), s.inv = true → stepOf a s = .next t → t.running → t.stepsLeft + 1 = s.stepsLeft

/-- R205: every run from a state that meets the invariant ends within the steps it has left, well or at a mark. -/
def Obligations.EveryRunEnds : Prop :=
  ∀ s : State, s.inv = true → s.running →
    ∃ n t, n ≤ s.stepsLeft ∧ Sys2Proof.core.run n s = .next t ∧ (¬ t.running ∨ t.endsWell = true)

/-! ### Bus writes -/

/-- R131, R132: `W_OSET` and `W_OCLR`. -/
def Obligations.OutputSetAndClearWrites : Prop :=
  ∀ (c : Nat) (data : Word),
    (∀ (m : RegOffsets) (o : Operands), m.wf = true →
      decode m { sel := 0x4000#16 ||| m.oset.setWidth 16, operands := { o with c := c, data := data } } = .ok (.wOset c data) ∧
      decode m { sel := 0x4000#16 ||| m.oclr.setWidth 16, operands := { o with c := c, data := data } } = .ok (.wOclr c data)) ∧
    (∀ (s : State) (ag : Agent) (ctl : Ctrl), s.standsAt ag 0 → s.clocked c ctl → pinsExist s.par data →
      exec (.wOset c data) s = .next (s.after c
        { ctl with outData := ctl.outData ||| data, last := { ctl.last with oset := data } }
        { ag with pc := ag.pc.nextOp } [.write s.cur c .oset data]) ∧
      exec (.wOclr c data) s = .next (s.after c
        { ctl with outData := andNot ctl.outData data, last := { ctl.last with oclr := data } }
        { ag with pc := ag.pc.nextOp } [.write s.cur c .oclr data])) ∧
    WriteFaults (.wOset c data) c .oset data ∧ WriteFaults (.wOclr c data) c .oclr data

/-- R133, R134: `W_PUEN` and `W_PUDIS`. -/
def Obligations.PullUpEnableAndDisableWrites : Prop :=
  ∀ (c : Nat) (data : Word),
    (∀ (m : RegOffsets) (o : Operands), m.wf = true →
      decode m { sel := 0x4000#16 ||| m.puen.setWidth 16, operands := { o with c := c, data := data } } = .ok (.wPuen c data) ∧
      decode m { sel := 0x4000#16 ||| m.pudis.setWidth 16, operands := { o with c := c, data := data } } = .ok (.wPudis c data)) ∧
    (∀ (s : State) (ag : Agent) (ctl : Ctrl), s.standsAt ag 0 → s.clocked c ctl → pinsExist s.par data →
      exec (.wPuen c data) s = .next (s.after c
        { ctl with puEn := ctl.puEn ||| data, last := { ctl.last with puen := data } }
        { ag with pc := ag.pc.nextOp } [.write s.cur c .puen data]) ∧
      exec (.wPudis c data) s = .next (s.after c
        { ctl with puEn := andNot ctl.puEn data, last := { ctl.last with pudis := data } }
        { ag with pc := ag.pc.nextOp } [.write s.cur c .pudis data])) ∧
    WriteFaults (.wPuen c data) c .puen data ∧ WriteFaults (.wPudis c data) c .pudis data

/-- R135, R136: `W_FEN` and `W_FDIS`. -/
def Obligations.FilterEnableAndDisableWrites : Prop :=
  ∀ (c : Nat) (data : Word),
    (∀ (m : RegOffsets) (o : Operands), m.wf = true →
      decode m { sel := 0x4000#16 ||| m.fen.setWidth 16, operands := { o with c := c, data := data } } = .ok (.wFen c data) ∧
      decode m { sel := 0x4000#16 ||| m.fdis.setWidth 16, operands := { o with c := c, data := data } } = .ok (.wFdis c data)) ∧
    (∀ (s : State) (ag : Agent) (ctl : Ctrl), s.standsAt ag 0 → s.clocked c ctl → pinsExist s.par data →
      exec (.wFen c data) s = .next (s.after c
        { ctl with filtEn := ctl.filtEn ||| data, last := { ctl.last with fen := data } }
        { ag with pc := ag.pc.nextOp } [.write s.cur c .fen data]) ∧
      exec (.wFdis c data) s = .next (s.after c
        { ctl with filtEn := andNot ctl.filtEn data, last := { ctl.last with fdis := data } }
        { ag with pc := ag.pc.nextOp } [.write s.cur c .fdis data])) ∧
    WriteFaults (.wFen c data) c .fen data ∧ WriteFaults (.wFdis c data) c .fdis data

/-- R137, R138: `W_PEN` and `W_DEN`. -/
def Obligations.PinAndDirectionEnableWrites : Prop :=
  ∀ (c : Nat) (data : Word),
    (∀ (m : RegOffsets) (o : Operands), m.wf = true →
      decode m { sel := 0x4000#16 ||| m.pen.setWidth 16, operands := { o with c := c, data := data } } = .ok (.wPen c data) ∧
      decode m { sel := 0x4000#16 ||| m.den.setWidth 16, operands := { o with c := c, data := data } } = .ok (.wDen c data)) ∧
    (∀ (s : State) (ag : Agent) (ctl : Ctrl), s.standsAt ag 0 → s.clocked c ctl → pinsExist s.par data →
      exec (.wPen c data) s = .next (s.after c
        { ctl with pioEn := ctl.pioEn ||| data, last := { ctl.last with pen := data } }
        { ag with pc := ag.pc.nextOp } [.write s.cur c .pen data]) ∧
      exec (.wDen c data) s = .next (s.after c
        { ctl with outEn := ctl.outEn ||| data, last := { ctl.last with den := data } }
        { ag with pc := ag.pc.nextOp } [.write s.cur c .den data])) ∧
    WriteFaults (.wPen c data) c .pen data ∧ WriteFaults (.wDen c data) c .den data

/-- R139, R140: `W_MDEN` and `W_MDDIS`. -/
def Obligations.MultidriveEnableAndDisableWrites : Prop :=
  ∀ (c : Nat) (data : Word),
    (∀ (m : RegOffsets) (o : Operands), m.wf = true →
      decode m { sel := 0x4000#16 ||| m.mden.setWidth 16, operands := { o with c := c, data := data } } = .ok (.wMden c data) ∧
      decode m { sel := 0x4000#16 ||| m.mddis.setWidth 16, operands := { o with c := c, data := data } } = .ok (.wMddis c data)) ∧
    (∀ (s : State) (ag : Agent) (ctl : Ctrl), s.standsAt ag 0 → s.clocked c ctl → pinsExist s.par data →
      exec (.wMden c data) s = .next (s.after c
        { ctl with mdEn := ctl.mdEn ||| data, last := { ctl.last with mden := data } }
        { ag with pc := ag.pc.nextOp } [.write s.cur c .mden data]) ∧
      exec (.wMddis c data) s = .next (s.after c
        { ctl with mdEn := andNot ctl.mdEn data, last := { ctl.last with mddis := data } }
        { ag with pc := ag.pc.nextOp } [.write s.cur c .mddis data])) ∧
    WriteFaults (.wMden c data) c .mden data ∧ WriteFaults (.wMddis c data) c .mddis data

/-- R130: the frame of the ten bus writes. If one answers a next state, then it changes at most the status field of its
port, in it at most the bits that are 1 in the data, and the port log of its port; no other controller, no other agent, no
`tmp`, no `ret` and no program changes. -/
def Obligations.BusWriteFrame : Prop :=
  ∀ (P : WritePort) (c : Nat) (data : Word) (s t : State), exec (writeInstr P c data) s = .next t →
    t.par = s.par ∧ t.cur = s.cur ∧ t.draws = s.draws ∧ t.ctrl.length = s.ctrl.length ∧
    (∀ c', c' ≠ c → t.ctrl[c']? = s.ctrl[c']?) ∧
    (∀ ctl ctl', s.ctrl[c]? = some ctl → t.ctrl[c]? = some ctl' →
      ctl'.clkEn = ctl.clkEn ∧
      (∀ F, F ≠ portField P → ctl'.field F = ctl.field F) ∧
      (∀ n, data.testBit n = false → (ctl'.field (portField P)).testBit n = (ctl.field (portField P)).testBit n) ∧
      ∀ Q, Q ≠ P → ctl'.last.get Q = ctl.last.get Q) ∧
    (∀ a, a ≠ s.cur → t.agent[a]? = s.agent[a]?) ∧
    ∀ ag ag', s.agent[s.cur]? = some ag → t.agent[s.cur]? = some ag' →
      ag'.prog = ag.prog ∧ ag'.tmp = ag.tmp ∧ ag'.ret = ag.ret

/-! ### Bus reads -/

/-- R160 to R170: the ten reads of write-only ports, `R_PEN` to `R_PUEN`. Under `WO_READ = ZERO` the result is 0; under
`DRAW` it is the drawn word, of which nothing is known (R160; the spec's own decision D8, log entries 18 and 9).
Nothing else changes but the trace and the position. -/
def Obligations.WriteOnlyPortReads : Prop :=
  ∀ (P : WritePort) (c : Nat),
    (∀ (m : RegOffsets) (o : Operands), m.wf = true →
      decode m { sel := (portOffset m (.wo P)).setWidth 16, operands := { o with c := c } } = .ok (readInstr (.wo P) c)) ∧
    (∀ (s : State) (ag : Agent) (ctl : Ctrl), s.standsAt ag 0 → s.clocked c ctl →
      (s.par.woRead = .zero →
        exec (readInstr (.wo P) c) s = .next { s with
          agent := s.agent.set s.cur { ag with ret := some 0, pc := ag.pc.nextOp },
          trace := s.trace ++ [.read s.cur c (.wo P) 0] }) ∧
      (s.par.woRead = .draw →
        exec (readInstr (.wo P) c) s = .next { s with
          agent := s.agent.set s.cur { ag with ret := some (drawn s), pc := ag.pc.nextOp },
          trace := s.trace ++ [.read s.cur c (.wo P) (drawn s)],
          draws := s.draws + 1 })) ∧
    ReadFaults (readInstr (.wo P) c) c (.wo P)

/-- R171: `R_LEVEL` gives a drawn word, whatever the state of the block. -/
def Obligations.LevelReadIsADraw : Prop :=
  ∀ c : Nat,
    (∀ (m : RegOffsets) (o : Operands), m.wf = true →
      decode m { sel := m.level.setWidth 16, operands := { o with c := c } } = .ok (.rLevel c)) ∧
    (∀ (s : State) (ag : Agent) (ctl : Ctrl), s.standsAt ag 0 → s.clocked c ctl →
      exec (.rLevel c) s = .next { s with
        agent := s.agent.set s.cur { ag with ret := some (drawn s), pc := ag.pc.nextOp },
        trace := s.trace ++ [.read s.cur c .level (drawn s)],
        draws := s.draws + 1 }) ∧
    ReadFaults (.rLevel c) c .level

/-- R80: a bus read, as an instruction, as the read of an "OR into" pair of `CFG_OUTPUT`, as `GET_LEVEL` or by address,
changes no controller; it writes only `ret` or `tmp` of the reader, and the trace grows by at most one read. That the word
read by address goes to `ret` and never to `tmp` is the model's choice (log entry 12). -/
def Obligations.ReadsChangeNoController : Prop :=
  (∀ (P : Port) (c : Nat) (s t : State), exec (readInstr P c) s = .next t →
    t.ctrl = s.ctrl ∧ t.agent.map Agent.tmp = s.agent.map Agent.tmp ∧ t.agent.map Agent.prog = s.agent.map Agent.prog ∧
    (∀ a, a ≠ s.cur → t.agent[a]? = s.agent[a]?) ∧
    (t.trace = s.trace ∨ ∃ v, t.trace = s.trace ++ [.read s.cur c P v])) ∧
  (∀ (c : Nat) (mask : Word) (s t : State), exec (.getLevel c mask) s = .next t →
    t.ctrl = s.ctrl ∧ t.agent.map Agent.tmp = s.agent.map Agent.tmp ∧ t.agent.map Agent.prog = s.agent.map Agent.prog ∧
    (∀ a, a ≠ s.cur → t.agent[a]? = s.agent[a]?) ∧
    (t.trace = s.trace ∨ ∃ v, t.trace = s.trace ++ [.read s.cur c .level v])) ∧
  (∀ (c : Nat) (mask level : Word) (md pu : Bool) (ag : Agent) (s t : State),
    exec (.cfgOutput c mask level md pu) s = .next t → s.agent[s.cur]? = some ag → ag.pc.j ∈ [0, 2, 5] →
    t.ctrl = s.ctrl ∧ t.agent.map Agent.ret = s.agent.map Agent.ret ∧ t.agent.map Agent.prog = s.agent.map Agent.prog ∧
    (∀ a, a ≠ s.cur → t.agent[a]? = s.agent[a]?) ∧
    (t.trace = s.trace ∨ ∃ P v, orPort md ag.pc.j = some P ∧ t.trace = s.trace ++ [.read s.cur c (.wo P) v])) ∧
  (∀ (addr bytes : Nat) (s t : State), memReadStep addr bytes s = .next t →
    t.ctrl = s.ctrl ∧ t.agent.map Agent.tmp = s.agent.map Agent.tmp ∧ t.agent.map Agent.prog = s.agent.map Agent.prog ∧
    (∀ a, a ≠ s.cur → t.agent[a]? = s.agent[a]?) ∧
    (t.trace = s.trace ∨ ∃ c P v, t.trace = s.trace ++ [.read s.cur c P v]))

/-- R88: an admitted access to a controller whose clock is not enabled, by instruction or by address, faults with
`ClockNotEnabled` and has no effect. -/
def Obligations.AccessWithoutClockFaults : Prop :=
  ∀ (c : Nat),
    (∀ (P : WritePort) (data : Word) (s : State) (ag : Agent) (ctl : Ctrl), s.standsAt ag 0 → s.ctrl[c]? = some ctl →
      ctl.clkEn = false →
      exec (writeInstr P c data) s = .next (s.faulted .clockNotEnabled
        { agent := s.cur, pc := ag.pc, c := c, subject := .port (.wo P), value := some data })) ∧
    (∀ P : Port, ReadFaults (readInstr P c) c P) ∧
    (∀ (addr bytes : Nat) (P : Port) (s : State) (ag : Agent) (ctl : Ctrl), s.running → s.agent[s.cur]? = some ag →
      s.ctrl[c]? = some ctl → ctl.clkEn = false → busAddress s.par addr bytes = .ok (c, P) →
      memReadStep addr bytes s = .next (s.faulted .clockNotEnabled
        { agent := s.cur, pc := ag.pc, c := c, subject := .port P, value := none }) ∧
      ∀ (Q : WritePort) (data : Word), P = .wo Q →
        memWriteStep addr bytes data s = .next (s.faulted .clockNotEnabled
          { agent := s.cur, pc := ag.pc, c := c, subject := .port (.wo Q), value := some data }))

/-! ### Entry checks -/

/-- R106: in a machine with its `N_CTRL` controllers, every operation on a controller index that is not below `N_CTRL` is
refused with `NoSuchController`, and nothing else changes. -/
def Obligations.MissingControllerIsRefused : Prop :=
  ∀ (i : Instr) (s : State) (ag : Agent), s.inv = true → s.standsAt ag 0 → s.par.nCtrl ≤ i.ctrlIndex →
    exec i s = .next (s.refusedFor .noSuchController)

/-- R198: the entry checks of the five primitives and `GET_LEVEL`, in their order; `CLOCK_ENABLE` runs the first only, so
that with an existing controller it sets no mark. -/
def Obligations.EntryChecksInOrder : Prop :=
  (∀ i : Instr, checkedOnEntry i = true → EntryChecksFail i) ∧
  (∀ (c : Nat) (s : State) (ag : Agent), s.standsAt ag 0 →
    (s.ctrl[c]? = none → exec (.clockEnable c) s = .next (s.refusedFor .noSuchController)) ∧
    ∀ ctl, s.ctrl[c]? = some ctl → ∃ t, exec (.clockEnable c) s = .next t ∧ t.running)

/-! ### Primitives and collaborators -/

/-- R191, R192: `SET_HIGH` and `SET_LOW`. -/
def Obligations.SetHighAndSetLow : Prop :=
  ∀ (c : Nat) (mask : Word),
    (∀ (m : RegOffsets) (o : Operands),
      decode m { sel := 0x8000#16, operands := { o with c := c, mask := mask } } = .ok (.setHigh c mask) ∧
      decode m { sel := 0x8001#16, operands := { o with c := c, mask := mask } } = .ok (.setLow c mask)) ∧
    (∀ (s : State) (ag : Agent) (ctl : Ctrl), s.standsAt ag 0 → s.clocked c ctl → pinsExist s.par mask →
      exec (.setHigh c mask) s = .next (s.after c
        { ctl with outData := ctl.outData ||| mask, last := { ctl.last with oset := mask } }
        { ag with pc := ag.pc.nextOp } [.write s.cur c .oset mask]) ∧
      exec (.setLow c mask) s = .next (s.after c
        { ctl with outData := andNot ctl.outData mask, last := { ctl.last with oclr := mask } }
        { ag with pc := ag.pc.nextOp } [.write s.cur c .oclr mask])) ∧
    EntryChecksFail (.setHigh c mask) ∧ EntryChecksFail (.setLow c mask)

/-- R193: `CFG_PULLUP` writes the pull-up-enable port or the pull-up-disable port, and never both; `enable` may be passed as a
`Bool` or as a word (R108, R199). -/
def Obligations.ConfigurePullUp : Prop :=
  ∀ (c : Nat) (mask : Word),
    (∀ (m : RegOffsets) (o : Operands) (x : BoolArg) (e : Bool), x.means e →
      decode m { sel := 0x8002#16, operands := { o with c := c, mask := mask, enable := x } }
        = .ok (.cfgPullup c mask e)) ∧
    (∀ (s : State) (ag : Agent) (ctl : Ctrl), s.standsAt ag 0 → s.clocked c ctl → pinsExist s.par mask →
      exec (.cfgPullup c mask true) s = .next (s.after c
        { ctl with puEn := ctl.puEn ||| mask, last := { ctl.last with puen := mask } }
        { ag with pc := ag.pc.nextOp } [.write s.cur c .puen mask]) ∧
      exec (.cfgPullup c mask false) s = .next (s.after c
        { ctl with puEn := andNot ctl.puEn mask, last := { ctl.last with pudis := mask } }
        { ag with pc := ag.pc.nextOp } [.write s.cur c .pudis mask])) ∧
    ∀ e : Bool, EntryChecksFail (.cfgPullup c mask e)

/-- R194: `CFG_INPUT` is two writes of `mask`: micro-step 0 to a pull-up port by the pull-up bit of `attrs`, micro-step 1 to a
filter port by the glitch and debounce bits. Each is stated from any state the agent stands in, so also where other agents
have moved between them. It writes nothing else. -/
def Obligations.ConfigureAsInput : Prop :=
  ∀ (c : Nat) (mask attrs : Word),
    (∀ (m : RegOffsets) (o : Operands),
      decode m { sel := 0x8003#16, operands := { o with c := c, mask := mask, attrs := attrs } }
        = .ok (.cfgInput c mask attrs)) ∧
    (∀ (s : State) (ag : Agent) (ctl : Ctrl), s.standsAt ag 0 → s.clocked c ctl → pinsExist s.par mask →
      (attrs &&& s.par.attrPullup ≠ 0 →
        exec (.cfgInput c mask attrs) s = .next (s.after c
          { ctl with puEn := ctl.puEn ||| mask, last := { ctl.last with puen := mask } }
          { ag with pc := ag.pc.nextMicro } [.write s.cur c .puen mask])) ∧
      (attrs &&& s.par.attrPullup = 0 →
        exec (.cfgInput c mask attrs) s = .next (s.after c
          { ctl with puEn := andNot ctl.puEn mask, last := { ctl.last with pudis := mask } }
          { ag with pc := ag.pc.nextMicro } [.write s.cur c .pudis mask]))) ∧
    (∀ (s : State) (ag : Agent) (ctl : Ctrl), s.standsAt ag 1 → s.clocked c ctl → pinsExist s.par mask →
      (attrs &&& (s.par.attrDeglitch ||| s.par.attrDebounce) ≠ 0 →
        exec (.cfgInput c mask attrs) s = .next (s.after c
          { ctl with filtEn := ctl.filtEn ||| mask, last := { ctl.last with fen := mask } }
          { ag with pc := ag.pc.nextOp } [.write s.cur c .fen mask])) ∧
      (attrs &&& (s.par.attrDeglitch ||| s.par.attrDebounce) = 0 →
        exec (.cfgInput c mask attrs) s = .next (s.after c
          { ctl with filtEn := andNot ctl.filtEn mask, last := { ctl.last with fdis := mask } }
          { ag with pc := ag.pc.nextOp } [.write s.cur c .fdis mask]))) ∧
    EntryChecksFail (.cfgInput c mask attrs)

/-- R195: under `WO_READ = ZERO` the eight micro-steps of `CFG_OUTPUT`, uninterrupted, leave the state R195 gives, `level`
unmasked, with eight accesses in the trace; and its entry checks are those of R198. `multidrive` and `pullup` may each be
passed as a `Bool` or as a word (R108, R199). R198 and R231 do not say which word a failing mask check records where `mask`
and `level` are both out of range: that it is `mask`, the first, is the model's choice (log entry 19). -/
def Obligations.ConfigureAsOutput : Prop :=
  ∀ (c : Nat) (mask level : Word) (md pu : Bool),
    (∀ (m : RegOffsets) (o : Operands) (x y : BoolArg), x.means md → y.means pu →
      decode m { sel := 0x8004#16, operands := { o with
        c := c, mask := mask, level := level, multidrive := x, pullup := y } }
        = .ok (.cfgOutput c mask level md pu)) ∧
    (∀ (s : State) (ag : Agent) (ctl : Ctrl), s.standsAt ag 0 → s.clocked c ctl → pinsExist s.par mask →
      pinsExist s.par level → s.par.woRead = .zero →
      execSteps 8 (.cfgOutput c mask level md pu) s = .next (s.after c
        { ctl with
          pioEn := ctl.pioEn ||| mask
          outEn := ctl.outEn ||| mask
          outData := ctl.outData ||| level
          mdEn := if md then ctl.mdEn ||| mask else andNot ctl.mdEn mask
          puEn := if pu then ctl.puEn ||| mask else andNot ctl.puEn mask
          last := { ctl.last with
            pen := mask, den := mask, oset := level
            mden := if md then mask else ctl.last.mden
            mddis := if md then ctl.last.mddis else mask
            puen := if pu then mask else ctl.last.puen
            pudis := if pu then ctl.last.pudis else mask } }
        { ag with pc := ag.pc.nextOp, tmp := none }
        [.read s.cur c (.wo .pen) 0, .write s.cur c .pen mask, .read s.cur c (.wo .den) 0, .write s.cur c .den mask,
          .write s.cur c .oset level, .read s.cur c (.wo (if md then .mden else .mddis)) 0,
          .write s.cur c (if md then .mden else .mddis) mask, .write s.cur c (if pu then .puen else .pudis) mask])) ∧
    EntryChecksFail (.cfgOutput c mask level md pu)

/-- R190, R195: the eight micro-steps of `CFG_OUTPUT` one at a time, from any state the agent stands in, so also where
other agents have moved between them and under `WO_READ = DRAW`: the reads put the word read into `tmp`, the "OR into"
writes write `tmp | mask` and empty `tmp`, or fault where that names a pin that does not exist, and micro-steps 4 and 7
write `level` and `mask`. -/
def Obligations.ConfigureAsOutputMicroSteps : Prop :=
  ∀ (c : Nat) (mask level : Word) (md pu : Bool) (s : State) (ag : Agent) (ctl : Ctrl) (j : Nat),
    s.standsAt ag j → s.clocked c ctl →
    (∀ P, (j = 0 → pinsExist s.par mask ∧ pinsExist s.par level) → j ∈ [0, 2, 5] → orPort md j = some P →
      (s.par.woRead = .zero →
        exec (.cfgOutput c mask level md pu) s = .next (s.after c ctl { ag with tmp := some 0, pc := ag.pc.nextMicro }
          [.read s.cur c (.wo P) 0])) ∧
      (s.par.woRead = .draw →
        exec (.cfgOutput c mask level md pu) s = .next { s.after c ctl
          { ag with tmp := some (drawn s), pc := ag.pc.nextMicro }
          [.read s.cur c (.wo P) (drawn s)] with draws := s.draws + 1 })) ∧
    (∀ P x, j ∈ [1, 3, 6] → orPort md j = some P → ag.tmp = some x →
      (pinsExist s.par (x ||| mask) →
        exec (.cfgOutput c mask level md pu) s = .next (s.after c
          (if j = 1 then { ctl with pioEn := ctl.pioEn ||| (x ||| mask), last := { ctl.last with pen := x ||| mask } }
            else if j = 3 then { ctl with outEn := ctl.outEn ||| (x ||| mask), last := { ctl.last with den := x ||| mask } }
            else if md then { ctl with mdEn := ctl.mdEn ||| (x ||| mask), last := { ctl.last with mden := x ||| mask } }
            else { ctl with mdEn := andNot ctl.mdEn (x ||| mask), last := { ctl.last with mddis := x ||| mask } })
          { ag with tmp := none, pc := ag.pc.nextMicro } [.write s.cur c P (x ||| mask)])) ∧
      (¬ pinsExist s.par (x ||| mask) →
        exec (.cfgOutput c mask level md pu) s = .next (s.faulted .maskOutOfRange
          { agent := s.cur, pc := ag.pc, c := c, subject := .port (.wo P), value := some (x ||| mask) }))) ∧
    (j = 4 → pinsExist s.par level →
      exec (.cfgOutput c mask level md pu) s = .next (s.after c
        { ctl with outData := ctl.outData ||| level, last := { ctl.last with oset := level } }
        { ag with pc := ag.pc.nextMicro } [.write s.cur c .oset level])) ∧
    (j = 7 → pinsExist s.par mask →
      exec (.cfgOutput c mask level md pu) s = .next (s.after c
        (if pu then { ctl with puEn := ctl.puEn ||| mask, last := { ctl.last with puen := mask } }
          else { ctl with puEn := andNot ctl.puEn mask, last := { ctl.last with pudis := mask } })
        { ag with pc := ag.pc.nextOp } [.write s.cur c (if pu then .puen else .pudis) mask]))

/-- R196: `CLOCK_ENABLE` enables the clock of its controller and records the event; it needs no clock, and where the clock
is enabled already nothing changes but the trace and the position. -/
def Obligations.ClockEnableTurnsTheClockOn : Prop :=
  ∀ c : Nat,
    (∀ (m : RegOffsets) (o : Operands),
      decode m { sel := 0x8010#16, operands := { o with c := c } } = .ok (.clockEnable c)) ∧
    ∀ (s : State) (ag : Agent), s.standsAt ag 0 →
      (∀ ctl, s.ctrl[c]? = some ctl →
        exec (.clockEnable c) s = .next (s.after c { ctl with clkEn := true } { ag with pc := ag.pc.nextOp }
          [.clockEnable s.cur c])) ∧
      (∀ ctl, s.clocked c ctl →
        exec (.clockEnable c) s = .next { s with
          agent := s.agent.set s.cur { ag with pc := ag.pc.nextOp }, trace := s.trace ++ [.clockEnable s.cur c] }) ∧
      (s.ctrl[c]? = none → exec (.clockEnable c) s = .next (s.refusedFor .noSuchController))

/-- R197: `GET_LEVEL` puts the level word and-ed with `mask` into `ret`, so that the bits outside `mask` are 0, and changes
no controller. -/
def Obligations.GetLevelIsMasked : Prop :=
  ∀ (c : Nat) (mask : Word),
    (∀ (m : RegOffsets) (o : Operands),
      decode m { sel := 0x8005#16, operands := { o with c := c, mask := mask } } = .ok (.getLevel c mask)) ∧
    (∀ (s : State) (ag : Agent) (ctl : Ctrl), s.standsAt ag 0 → s.clocked c ctl → pinsExist s.par mask →
      ∃ r, exec (.getLevel c mask) s = .next { s with
          agent := s.agent.set s.cur { ag with ret := some r, pc := ag.pc.nextOp },
          trace := s.trace ++ [.read s.cur c .level (drawn s)],
          draws := s.draws + 1 } ∧
        r = drawn s &&& mask ∧ (∀ n, mask.testBit n = false → r.testBit n = false) ∧ (mask = 0 → r = 0)) ∧
    EntryChecksFail (.getLevel c mask)

/-! ### Rules of the whole machine -/

/-- R47: an operation reads and writes its own controller's fields only. If it answers a next state, every other controller
is unchanged; and with other controllers in their place, it does the same. -/
def Obligations.OneControllerOnly : Prop :=
  ∀ (i : Instr) (s t : State), exec i s = .next t →
    (∀ c, c ≠ i.ctrlIndex → t.ctrl[c]? = s.ctrl[c]?) ∧
    ∀ others : List Ctrl, others[i.ctrlIndex]? = s.ctrl[i.ctrlIndex]? →
      ∃ cs, exec i { s with ctrl := others } = .next { t with ctrl := cs } ∧
        cs[i.ctrlIndex]? = t.ctrl[i.ctrlIndex]? ∧ ∀ c, c ≠ i.ctrlIndex → cs[c]? = others[c]?

/-- R35: a status field changes only by a write to one of its ports, which the trace records, and then as the port's kind
says; a step changes it in no other way. -/
def Obligations.StatusFieldsChangeOnlyByTheirPorts : Prop :=
  ∀ (s t : State) (a c : Nat) (ctl ctl' : Ctrl) (F : StatusField), stepOf a s = .next t →
    s.ctrl[c]? = some ctl → t.ctrl[c]? = some ctl' → ctl'.field F ≠ ctl.field F →
    ∃ P v, portField P = F ∧ t.trace = s.trace ++ [.write a c P v] ∧ ctl'.last.get P = v ∧
      ctl'.field F = match portKind P with
        | .set => ctl.field F ||| v
        | .clear => andNot (ctl.field F) v

/-- R36: only a write to the direction-enable port changes the direction, and a step never makes an output an input; by
R137 no step takes a pin from the controller. -/
def Obligations.OutputsStayOutputs : Prop :=
  ∀ (s t : State) (a c : Nat) (ctl ctl' : Ctrl), stepOf a s = .next t →
    s.ctrl[c]? = some ctl → t.ctrl[c]? = some ctl' →
    (ctl'.outEn ≠ ctl.outEn → ∃ v, t.trace = s.trace ++ [.write a c .den v]) ∧
    ∀ n, (ctl.outEn.testBit n = true → ctl'.outEn.testBit n = true) ∧
      (ctl.pioEn.testBit n = true → ctl'.pioEn.testBit n = true)

/-- R39: a step leaves the clock enabled where it is, and enables it only by `CLOCK_ENABLE`, which the trace records. -/
def Obligations.ClockStaysOn : Prop :=
  ∀ (s t : State) (a c : Nat) (ctl ctl' : Ctrl), stepOf a s = .next t →
    s.ctrl[c]? = some ctl → t.ctrl[c]? = some ctl' →
    (ctl.clkEn = true → ctl'.clkEn = true) ∧
    (ctl.clkEn = false → ctl'.clkEn = true → t.trace = s.trace ++ [.clockEnable a c])

/-- R12: no operation changes a parameter: no step, no access by address, no reset. -/
def Obligations.ParametersAreFixed : Prop :=
  ∀ s t : State,
    (∀ a, stepOf a s = .next t → t.par = s.par) ∧ (step s = .next t → t.par = s.par) ∧
    (∀ i, exec i s = .next t → t.par = s.par) ∧
    (∀ addr bytes v, memWriteStep addr bytes v s = .next t → t.par = s.par) ∧
    (∀ addr bytes, memReadStep addr bytes s = .next t → t.par = s.par) ∧
    (∀ addr, memFetchStep addr s = .next t → t.par = s.par) ∧
    (resetEvent s).par = s.par

/-- R40: the trace only grows, by the one access or clock enable the step performed, if it performed one; a step that sets
a mark performs none. -/
def Obligations.TraceOnlyGrows : Prop :=
  ∀ (s t : State) (a : Nat), stepOf a s = .next t →
    (t.running → ∃ e, t.trace = s.trace ++ [e] ∧
      ((∃ c P v, e = .read a c P v) ∨ (∃ c P v, e = .write a c P v) ∨ ∃ c, e = .clockEnable a c)) ∧
    (¬ t.running → t.trace = s.trace)

/-- R31, R204: a step moves the position of its agent to its successor, the next micro-step or the next operation, and to
nothing else; a step that sets a mark leaves it. No step changes a program. -/
def Obligations.PositionMovesToItsSuccessor : Prop :=
  ∀ (s t : State) (a : Nat) (i : Instr) (ag : Agent), s.agent[a]? = some ag → fetch (issueTo a s) = .ok i →
    stepOf a s = .next t →
    ∃ ag', t.agent[a]? = some ag' ∧ ag'.prog = ag.prog ∧
      (t.running → ag'.pc = if ag.pc.j + 1 < (expand s.par i).length then ag.pc.nextMicro else ag.pc.nextOp) ∧
      (¬ t.running → ag' = ag) ∧ ∀ b, b ≠ a → t.agent[b]? = s.agent[b]?

/-- R34: the result is written by the bus reads and `GET_LEVEL` only; reading it while it is `none`, as it is at reset,
faults, and while it holds a value gives that value. -/
def Obligations.ResultIsWrittenByReadsOnly : Prop :=
  (∀ (i : Instr) (s t : State), exec i s = .next t → (∀ P c, i ≠ readInstr P c) → (∀ c mask, i ≠ .getLevel c mask) →
    t.agent.map Agent.ret = s.agent.map Agent.ret) ∧
  (∀ (s : State) (a : Nat) (ag : Agent), s.agent[a]? = some ag →
    (ag.ret = none → observeRet a s = .fault .noResult) ∧ ∀ v, ag.ret = some v → observeRet a s = .next v) ∧
  ∀ (p : Params) (ag : Agent), ag ∈ (State.resetWith p).agent → ag.ret = none

/-- R33: `tmp` is written by `CFG_OUTPUT` only, and after its "OR into" writes it is `none`. -/
def Obligations.TmpBelongsToConfigureAsOutput : Prop :=
  (∀ (i : Instr) (s t : State), exec i s = .next t → (∀ c mask level md pu, i ≠ .cfgOutput c mask level md pu) →
    t.agent.map Agent.tmp = s.agent.map Agent.tmp) ∧
  ∀ (c : Nat) (mask level : Word) (md pu : Bool) (s t : State) (ag ag' : Agent),
    exec (.cfgOutput c mask level md pu) s = .next t → t.running → s.agent[s.cur]? = some ag →
    t.agent[s.cur]? = some ag' →
    (ag.pc.j ∈ [1, 3, 6] → ag.tmp ≠ none ∧ ag'.tmp = none) ∧ (ag.pc.j ∈ [4, 7] → ag'.tmp = ag.tmp)

/-- R233: a step that faults or refuses, of an instruction, of an agent or of the machine, changes nothing but its mark (and,
in the model's own bookkeeping, whose step it was); after it no agent has a step, and the state is not final. -/
def Obligations.FaultChangesOnlyTheMark : Prop :=
  ∀ (s t : State), ¬ t.running →
    (∀ i : Instr, exec i s = .next t →
      (∃ r info, t = { s with fault := some (r, info) }) ∨ ∃ r, t = { s with refused := some r }) ∧
    (∀ a : Nat, stepOf a s = .next t →
      (∃ r info, t = { s with cur := a, turns := s.turns + 1, fault := some (r, info) }) ∨
        ∃ r, t = { s with cur := a, turns := s.turns + 1, refused := some r }) ∧
    (step s = .next t → ∃ a, chooseAgent s = some a ∧ stepOf a s = .next t) ∧
    (∀ (a : Nat) (u : State), stepOf a t ≠ .next u ∧ step t ≠ .next u) ∧ t.endsWell = false

/-- R42: no step changes the bits of pins that do not exist in any status field, and in the port logs they stay 0. -/
def Obligations.BitsBeyondPinsNeverChange : Prop :=
  ∀ (s t : State) (a c : Nat) (ctl ctl' : Ctrl), stepOf a s = .next t →
    s.ctrl[c]? = some ctl → t.ctrl[c]? = some ctl' →
    (∀ F, andNot (ctl'.field F) (pinsMask s.par) = andNot (ctl.field F) (pinsMask s.par)) ∧
    ∀ P, andNot (ctl.last.get P) (pinsMask s.par) = 0 → andNot (ctl'.last.get P) (pinsMask s.par) = 0

/-! ### Laws of the writes and of the primitives -/

/-- R141, items 1 and 2: a write that sets no mark leaves every bit that is 0 in its data as it was, in every status field;
the same write again leaves the same controllers. -/
def Obligations.WriteIsLocalAndIdempotent : Prop :=
  ∀ (P : WritePort) (c : Nat) (v : Word) (s t : State), exec (writeInstr P c v) s = .next t → t.running →
    (∀ ctl ctl' F n, s.ctrl[c]? = some ctl → t.ctrl[c]? = some ctl' → v.testBit n = false →
      (ctl'.field F).testBit n = (ctl.field F).testBit n) ∧
    ∀ u, exec (writeInstr P c v) t = .next u → u.running → u.ctrl = t.ctrl

/-- R141, items 3 and 5: of a set port and a clear port of one field, the last write wins on its bits; with disjoint data
the field ends set on the one word, clear on the other and unchanged elsewhere. -/
def Obligations.LastWriteWins : Prop :=
  ∀ (P Q : WritePort) (c : Nat) (v u : Word) (s s₁ s₂ : State) (ctl ctl₂ : Ctrl), portField P = portField Q →
    portKind P ≠ portKind Q → exec (writeInstr P c v) s = .next s₁ → s₁.running →
    exec (writeInstr Q c u) s₁ = .next s₂ → s₂.running → s.ctrl[c]? = some ctl → s₂.ctrl[c]? = some ctl₂ →
    (portKind Q = .clear → ctl₂.field (portField P) &&& u = 0) ∧
    (portKind Q = .set → ctl₂.field (portField P) &&& u = u) ∧
    (portKind Q = .clear → v &&& u = 0 →
      ctl₂.field (portField P) &&& v = v ∧ ∀ n, v.testBit n = false → u.testBit n = false →
        (ctl₂.field (portField P)).testBit n = (ctl.field (portField P)).testBit n)

/-- R141, item 4: the two orders of two writes. Different fields: the status fields agree. A set port and a clear port of
one field: they agree iff the data are disjoint. The same port: they agree, and the port logs agree iff the data do. -/
def Obligations.WriteOrderMatters : Prop :=
  ∀ (P Q : WritePort) (c : Nat) (v u : Word) (s s₁ s₂ t₁ t₂ : State) (a b : Ctrl),
    exec (writeInstr P c v) s = .next s₁ → s₁.running → exec (writeInstr Q c u) s₁ = .next s₂ → s₂.running →
    exec (writeInstr Q c u) s = .next t₁ → t₁.running → exec (writeInstr P c v) t₁ = .next t₂ → t₂.running →
    s₂.ctrl[c]? = some a → t₂.ctrl[c]? = some b →
    (portField P ≠ portField Q → ∀ F, a.field F = b.field F) ∧
    (portField P = portField Q → portKind P ≠ portKind Q → ((∀ F, a.field F = b.field F) ↔ v &&& u = 0)) ∧
    (P = Q → (∀ F, a.field F = b.field F) ∧ (a.last.get P = b.last.get P ↔ v = u))

/-- R202: under `WO_READ = ZERO` a primitive or `CLOCK_ENABLE`, whole and without a mark, leaves the same controllers when
issued again with the same operands; `GET_LEVEL` changes none. -/
def Obligations.PrimitivesAreIdempotent : Prop :=
  ∀ (i : Instr) (s s₁ s₂ : State) (ag : Agent), s.par.woRead = .zero → s.standsAt ag 0 →
    execWhole i s = .next s₁ → s₁.running → execWhole i s₁ = .next s₂ → s₂.running →
    (checkedOnEntry i = true ∨ ∃ c, i = .clockEnable c) →
    s₂.ctrl = s₁.ctrl ∧ ∀ c mask, i = .getLevel c mask → s₁.ctrl = s.ctrl

/-- R203: under `WO_READ = ZERO` a whole primitive without a mark changes status bits only at the pins of `mask`, but that
`CFG_OUTPUT` changes `out_data` at the pins of `level`. -/
def Obligations.PrimitivesAreLocal : Prop :=
  ∀ (i : Instr) (s t : State) (ag : Agent) (c : Nat) (ctl ctl' : Ctrl) (n : Nat) (F : StatusField),
    s.par.woRead = .zero → s.standsAt ag 0 → execWhole i s = .next t → t.running →
    s.ctrl[c]? = some ctl → t.ctrl[c]? = some ctl' →
    (∀ d mask, (i = .setHigh d mask ∨ i = .setLow d mask ∨ (∃ e, i = .cfgPullup d mask e) ∨ ∃ at', i = .cfgInput d mask at') →
      mask.testBit n = false → (ctl'.field F).testBit n = (ctl.field F).testBit n) ∧
    (∀ d mask level md pu, i = .cfgOutput d mask level md pu →
      (if F = .outData then level else mask).testBit n = false → (ctl'.field F).testBit n = (ctl.field F).testBit n)

/-- R270, R274: the drives a pin of `mask` shows during an uninterrupted `CFG_OUTPUT` under `WO_READ = ZERO`, whatever its bit
of `level` is, after each number `k` of micro-steps. After micro-step 1 the controller has the pin; after micro-step 3 it
drives its old latched level with its old multidrive setting (a low glitch where the old level was 0); from micro-step 4 its
new latched level, which a level bit of 0 leaves as it was; from micro-step 6 with the new multidrive setting; and the pull-up
changes last, at micro-step 7. The pad record and its drives are the spec's own decisions D21 and D22 (log entry 16). -/
def Obligations.ConfigureAsOutputTransients : Prop :=
  ∀ (c : Nat) (mask level : Word) (md pu : Bool) (s t : State) (ag : Agent) (ctl ctl' : Ctrl) (k n : Nat),
    s.standsAt ag 0 → s.clocked c ctl → pinsExist s.par mask → pinsExist s.par level → s.par.woRead = .zero →
    execSteps k (.cfgOutput c mask level md pu) s = .next t → t.ctrl[c]? = some ctl' → mask.testBit n = true →
    (k ∈ [0, 1] → padDrive ctl' n = padDrive ctl n) ∧
    (k ∈ [2, 3] → padDrive ctl' n =
      if ctl.outEn.testBit n then outputDrive (ctl.outData.testBit n) (ctl.mdEn.testBit n) else .released) ∧
    (k = 4 → padDrive ctl' n = outputDrive (ctl.outData.testBit n) (ctl.mdEn.testBit n)) ∧
    (k ∈ [5, 6] → padDrive ctl' n = outputDrive (ctl.outData.testBit n || level.testBit n) (ctl.mdEn.testBit n)) ∧
    (k ∈ [7, 8] → padDrive ctl' n = outputDrive (ctl.outData.testBit n || level.testBit n) md) ∧
    (k ≤ 7 → (ctrlPad ctl' n).pull = (ctrlPad ctl n).pull) ∧
    (k = 8 → (ctrlPad ctl' n).pull = pu)

/-! ### Pads -/

/-- R44: the drive of a pin, for each combination of its four bits; the open-drain reading of multidrive and `Unowned` are
the spec's own decisions D21 and D22 (log entry 16). -/
def Obligations.PadDriveTable : Prop :=
  ∀ (ctl : Ctrl) (i : Nat),
    (ctl.pioEn.testBit i = false → padDrive ctl i = .unowned) ∧
    (ctl.pioEn.testBit i = true → ctl.outEn.testBit i = false → padDrive ctl i = .released) ∧
    (ctl.pioEn.testBit i = true → ctl.outEn.testBit i = true → ctl.outData.testBit i = false → padDrive ctl i = .low) ∧
    (ctl.pioEn.testBit i = true → ctl.outEn.testBit i = true → ctl.mdEn.testBit i = false →
      ctl.outData.testBit i = true → padDrive ctl i = .high) ∧
    (ctl.pioEn.testBit i = true → ctl.outEn.testBit i = true → ctl.mdEn.testBit i = true →
      ctl.outData.testBit i = true → padDrive ctl i = .released)

/-- R43, R45: a pad exists for the existing pins of existing controllers; its pull and filter are the bits of `pu_en` and
`filt_en`, whatever `pio_en` and `out_en` are. The pad record is the spec's own decision D21 (log entry 16). -/
def Obligations.PadPullAndFilter : Prop :=
  ∀ (s : State) (c i : Nat) (ctl : Ctrl), s.ctrl[c]? = some ctl →
    (i < s.par.nPins → ∃ q, pad s c i = some q ∧ q.drive = padDrive ctl i ∧
      (q.pull = true ↔ ctl.puEn.testBit i = true) ∧ (q.filter = true ↔ ctl.filtEn.testBit i = true)) ∧
    (s.par.nPins ≤ i → pad s c i = none)

/-- R37: an output level written to a pin that is an input changes no pad of it and is latched; when a later write to the
direction-enable port makes the pin an output, the latched level is kept and takes effect at once, push-pull or, with
multidrive on, open-drain (R44), if the controller has the pin. The pad record, the open-drain reading and `Unowned` are the
spec's own decisions D21 and D22 (log entry 16). -/
def Obligations.LevelOfAnInputIsLatched : Prop :=
  ∀ (P : WritePort) (c n : Nat) (v w : Word) (s t u : State) (ctl ctl' ctl'' : Ctrl), P = .oset ∨ P = .oclr →
    exec (writeInstr P c v) s = .next t → t.running → s.ctrl[c]? = some ctl → t.ctrl[c]? = some ctl' →
    ctl.outEn.testBit n = false →
    pad t c n = pad s c n ∧
    ctl'.outData.testBit n = (if v.testBit n then decide (P = .oset) else ctl.outData.testBit n) ∧
    (exec (.wDen c w) t = .next u → u.running → u.ctrl[c]? = some ctl'' → w.testBit n = true →
      ctl''.outData = ctl'.outData ∧
      padDrive ctl'' n = if ctl.pioEn.testBit n then outputDrive (ctl'.outData.testBit n) (ctl.mdEn.testBit n) else .unowned)

/-! ### The bus address space -/

/-- R16, R72, R73: in parameters that meet R72 and R103, an access of exactly `W` bits (4 bytes at the default) at
`CTRL_BASE[c] + REG_OFFSET[P]` is the bus access to port `P` of controller `c`. -/
def Obligations.AddressedAccessIsThePortAccess : Prop :=
  ∀ (s : State) (c base bytes : Nat), s.par.wf = true → s.par.ctrlBase[c]? = some base → 8 * bytes = s.par.width →
    (∀ (P : WritePort) (v : Word),
      memWrite (base + (portOffset s.par.regOffset (.wo P)).toNat) bytes v s = busWrite c P v s) ∧
    ∀ P : Port, memRead (base + (portOffset s.par.regOffset P).toNat) bytes s = busRead c P s

/-- R72, R73, R74: accesses that are refused, each by its reason (in the order of log entry 11, the model's choice) and with
no effect but the mark: at an address in no block; in a block, of another size than `W` bits; of `W` bits at an offset that is
no multiple of 4; at an aligned offset that is no port's; and a write to the level port. -/
def Obligations.OtherAccessesAreRefused : Prop :=
  ∀ (s : State) (addr bytes : Nat) (v : Word), s.par.wf = true → s.running →
    ((∀ (c base : Nat), s.par.ctrlBase[c]? = some base → addr < base ∨ base + s.par.blockSize ≤ addr) →
      memWriteStep addr bytes v s = .next (s.refusedFor .notThisBlock) ∧
      memReadStep addr bytes s = .next (s.refusedFor .notThisBlock)) ∧
    ∀ (c base off : Nat), s.par.ctrlBase[c]? = some base → addr = base + off → off < s.par.blockSize →
      (8 * bytes ≠ s.par.width →
        memWriteStep addr bytes v s = .next (s.refusedFor .badWidth) ∧
        memReadStep addr bytes s = .next (s.refusedFor .badWidth)) ∧
      (8 * bytes = s.par.width → off % 4 ≠ 0 →
        memWriteStep addr bytes v s = .next (s.refusedFor .misaligned) ∧
        memReadStep addr bytes s = .next (s.refusedFor .misaligned)) ∧
      (8 * bytes = s.par.width → off % 4 = 0 → (∀ P, (portOffset s.par.regOffset P).toNat ≠ off) →
        memWriteStep addr bytes v s = .next (s.refusedFor .unmappedOffset) ∧
        memReadStep addr bytes s = .next (s.refusedFor .unmappedOffset)) ∧
      (8 * bytes = s.par.width → off = (portOffset s.par.regOffset .level).toNat →
        memWriteStep addr bytes v s = .next (s.refusedFor .readOnlyPort))

/-- R72, R85: an instruction fetch is refused wherever it goes, and nothing else changes: from an address inside a block with
`NotExecutable`, and from an address in no block, as every access there, with `NotThisBlock`. -/
def Obligations.InstructionFetchIsRefused : Prop :=
  ∀ (s : State) (addr : Nat), s.running →
    (∀ (c base : Nat), s.par.ctrlBase[c]? = some base → base ≤ addr → addr < base + s.par.blockSize →
      memFetchStep addr s = .next (s.refusedFor .notExecutable)) ∧
    ((∀ (c base : Nat), s.par.ctrlBase[c]? = some base → addr < base ∨ base + s.par.blockSize ≤ addr) →
      memFetchStep addr s = .next (s.refusedFor .notThisBlock))

/-! ### Reset and the invariant -/

/-- R260: the state right after reset, for every parameter, and for the machine's own: its six `RESET_*` parameters are the
defaults, the spec's own choice D17 (log entry 7), and then every pad is `(Unowned, false, false)`, in the pad record of the
spec's own decisions D21 and D22 (log entry 16). -/
def Obligations.ResetState : Prop :=
  (∀ p : Params,
    (State.resetWith p).ctrl.length = p.nCtrl ∧ (State.resetWith p).agent.length = p.nAgents ∧
    (∀ ctl ∈ (State.resetWith p).ctrl,
      ctl.pioEn = p.resetPioEn ∧ ctl.outEn = p.resetOutEn ∧ ctl.outData = p.resetOutData ∧ ctl.puEn = p.resetPuEn ∧
      ctl.filtEn = p.resetFiltEn ∧ ctl.mdEn = p.resetMdEn ∧ (∀ P, ctl.last.get P = 0) ∧ ctl.clkEn = false) ∧
    (∀ ag ∈ (State.resetWith p).agent, ag.pc = { k := 0, j := 0 } ∧ ag.tmp = none ∧ ag.ret = none) ∧
    (State.resetWith p).fault = none ∧ (State.resetWith p).refused = none ∧ (State.resetWith p).trace = []) ∧
  State.reset = State.resetWith Config.params ∧
  (Config.params.resetPioEn = 0 ∧ Config.params.resetOutEn = 0 ∧ Config.params.resetOutData = 0 ∧
    Config.params.resetPuEn = 0 ∧ Config.params.resetFiltEn = 0 ∧ Config.params.resetMdEn = 0) ∧
  ∀ c i, c < Config.params.nCtrl → i < Config.params.nPins →
    pad State.reset c i = some { drive := .unowned, pull := false, filter := false }

/-- R261: a reset sets every controller and every agent to the state of R260 at once, whatever the state was; each agent
keeps the program it was given (log entry 14). The draws and the choices of the schedule go on and do not start again: the
model's choice (log entry 22). -/
def Obligations.ResetEventResetsEverything : Prop :=
  ∀ s : State,
    (resetEvent s).ctrl = (State.resetWith s.par).ctrl ∧ (resetEvent s).running ∧ (resetEvent s).trace = [] ∧
    (resetEvent s).agent.map Agent.prog = s.agent.map Agent.prog ∧
    (resetEvent s).draws = s.draws ∧ (resetEvent s).turns = s.turns ∧
    ∀ ag ∈ (resetEvent s).agent, ag.pc = { k := 0, j := 0 } ∧ ag.tmp = none ∧ ag.ret = none

/-- The invariants hold right after reset, for parameters that meet R11, R14, R72 and R103, and the machine's own do. -/
def Obligations.InvariantHoldsAtReset : Prop :=
  (∀ p : Params, p.wf = true → (State.resetWith p).inv = true ∧ (State.resetWith p).wordsFit = true) ∧
  Config.params.wf = true ∧ State.reset.inv = true ∧ State.reset.wordsFit = true

/-- R31, R33, R42, R50: every step, of every agent in every state, keeps the invariant, and so does the step the schedule
chooses. -/
def Obligations.EveryStepKeepsTheInvariant : Prop :=
  ∀ (s t : State), s.inv = true → (∀ a, stepOf a s = .next t → t.inv = true) ∧ (step s = .next t → t.inv = true)

/-- R11, R14: every word of the machine is `W` bits wide, whatever `W` is: every step, of every agent, from a state whose
words are `W` bits wide leaves such a state, and so does the step the schedule chooses. -/
def Obligations.WordsKeepTheirWidth : Prop :=
  ∀ (s t : State), s.wordsFit = true →
    (∀ a, stepOf a s = .next t → t.par = s.par ∧ t.wordsFit = true) ∧
    (step s = .next t → t.par = s.par ∧ t.wordsFit = true)
end

