-- ==== Sys2Proof/Laws/Encoding.lean ====
section
/-! SUPPORT. The fields of the selectors of R105, and the port found at an offset that meets R103. -/

namespace Sys2Proof

/-- The fields of a bus read selector: class 00, a zero reserved field, the offset and its two low bits (R104, R105). -/
theorem readSelector_fields (o : Offset) :
    (o.setWidth 16).extractLsb' 14 2 = 0#2 ∧ (o.setWidth 16).extractLsb' 12 2 = 0#2 ∧
    (o.setWidth 16).extractLsb' 0 12 = o ∧ (o.setWidth 16).extractLsb' 0 2 = o.extractLsb' 0 2 := by
  have := o.isLt
  refine ⟨?_, ?_, ?_, ?_⟩ <;> apply BitVec.eq_of_toNat_eq <;>
    simp [BitVec.extractLsb'_toNat, Nat.shiftRight_eq_div_pow] <;> omega

/-- A bus write selector as a number: `0x4000` and the offset (R105). -/
theorem writeSelector_toNat (o : Offset) : (0x4000#16 ||| o.setWidth 16).toNat = 0x4000 + o.toNat := by
  have := o.isLt
  rw [BitVec.toNat_or, BitVec.toNat_setWidth, Nat.mod_eq_of_lt (by omega)]
  exact (Nat.two_pow_add_eq_or_of_lt (i := 12) (b := o.toNat) (by omega) 4).symm

/-- The fields of a bus write selector: class 01, a zero reserved field, the offset and its two low bits (R104, R105). -/
theorem writeSelector_fields (o : Offset) :
    (0x4000#16 ||| o.setWidth 16).extractLsb' 14 2 = 1#2 ∧ (0x4000#16 ||| o.setWidth 16).extractLsb' 12 2 = 0#2 ∧
    (0x4000#16 ||| o.setWidth 16).extractLsb' 0 12 = o ∧
    (0x4000#16 ||| o.setWidth 16).extractLsb' 0 2 = o.extractLsb' 0 2 := by
  have := o.isLt
  refine ⟨?_, ?_, ?_, ?_⟩ <;> apply BitVec.eq_of_toNat_eq <;>
    simp only [BitVec.extractLsb'_toNat, writeSelector_toNat, Nat.shiftRight_eq_div_pow] <;> simp <;> omega

/-- The port found at an offset has that offset (R71). -/
theorem portAt_some {m : RegOffsets} {n : Nat} {P : Port} (h : portAt m n = some P) : (portOffset m P).toNat = n := by
  simpa using List.find?_some h

/-- Where no port has the offset, none is found (R74). -/
theorem portAt_none {m : RegOffsets} {n : Nat} (h : ∀ P, (portOffset m P).toNat ≠ n) : portAt m n = none := by
  cases hp : portAt m n with
  | none => rfl
  | some P => exact absurd (portAt_some hp) (h P)

theorem offset_beq (a b : Offset) : (a.toNat == b.toNat) = decide (a = b) := by
  by_cases h : a = b <;> simp [h, BitVec.toNat_inj]

/-- At a port's offset that port is found: the offsets are distinct (R103). -/
theorem portAt_self {m : RegOffsets} (hm : m.wf = true) (P : Port) : portAt m (portOffset m P).toNat = some P := by
  have h : m.toList.Nodup := by
    simp only [RegOffsets.wf, Bool.and_eq_true, decide_eq_true_eq] at hm
    exact hm.1
  simp only [RegOffsets.toList, List.nodup_cons, List.mem_cons, not_or, ← ne_eq, List.not_mem_nil, not_false_eq_true,
    and_true, List.nodup_nil] at h
  unfold portAt allPorts
  rcases P with P | _
  · cases P <;> simp [portOffset, List.find?, offset_beq, h]
  · simp [portOffset, List.find?, offset_beq, h]

/-- Every port's offset is a multiple of 4 (R103). -/
theorem portOffset_aligned {m : RegOffsets} (hm : m.wf = true) (P : Port) : (portOffset m P).extractLsb' 0 2 = 0#2 := by
  simp [RegOffsets.wf, RegOffsets.toList] at hm
  rcases P with P | _
  · cases P <;> simp [portOffset, hm]
  · simp [portOffset, hm]

end Sys2Proof
end

