-- ==== Sys2Proof/Laws/Word.lean ====
section
/-! SUPPORT. The laws of words: the bits of `andNot`, that it is the `& ~v` of R14 at every width, and which words have only
bits below a number. -/

namespace Sys2Proof

/-- Bit `n` of `a & ~v`. -/
@[simp] theorem andNot_testBit (a v : Word) (n : Nat) : (andNot a v).testBit n = (a.testBit n && !v.testBit n) := by
  simp only [andNot, Nat.testBit_xor, Nat.testBit_and]
  cases a.testBit n <;> cases v.testBit n <;> rfl

/-- Nothing is left of no bits. -/
@[simp] theorem zero_andNot (v : Word) : andNot 0 v = 0 := by simp [andNot]

/-- `a & ~v` with `~` the NOT within `w` bits (R14), for words of `w` bits, whatever `w` is. -/
theorem andNot_eq_and_not {a : Word} {w : Nat} (ha : a < 2 ^ w) (v : Word) : andNot a v = a &&& (v ^^^ (2 ^ w - 1)) := by
  apply Nat.eq_of_testBit_eq
  intro n
  by_cases hn : n < w
  · simp [hn]
  · simp [Nat.testBit_lt_two_pow (Nat.lt_of_lt_of_le ha (Nat.pow_le_pow_right (by omega) (Nat.le_of_not_lt hn)))]

/-- `a & ~v` is 0 exactly where every bit of `a` is a bit of `v`. -/
theorem andNot_eq_zero {a v : Word} : andNot a v = 0 ↔ ∀ n, a.testBit n = true → v.testBit n = true := by
  constructor
  · intro h n ha
    have := andNot_testBit a v n
    simpa [h, ha] using this
  · intro h
    apply Nat.eq_of_testBit_eq
    intro n
    have := h n
    cases ha : a.testBit n <;> simp_all

/-- A word whose bits are all among those of a `w`-bit word is a `w`-bit word. -/
theorem lt_two_pow_of_bits {a b : Word} {w : Nat} (hb : b < 2 ^ w) (h : ∀ n, a.testBit n = true → b.testBit n = true) :
    a < 2 ^ w := by
  apply Nat.lt_pow_two_of_testBit
  intro n hn
  have hbn := Nat.testBit_lt_two_pow (Nat.lt_of_lt_of_le hb (Nat.pow_le_pow_right (by omega) hn))
  cases ha : a.testBit n with
  | false => rfl
  | true => simp [h n ha] at hbn

/-- Clearing bits keeps the width. -/
theorem andNot_lt {a : Word} {w : Nat} (ha : a < 2 ^ w) (v : Word) : andNot a v < 2 ^ w :=
  lt_two_pow_of_bits ha fun n hn => by simp at hn; exact hn.1

/-- Every bit of a pin that exists is below the width. -/
theorem pinsMask_lt (p : Params) : pinsMask p < 2 ^ p.width := by
  unfold pinsMask
  split
  · rename_i h
    rw [Nat.one_shiftLeft]
    exact Nat.lt_of_le_of_lt (Nat.sub_le _ _) (Nat.pow_lt_pow_right (by decide) h)
  · exact Nat.sub_lt (Nat.two_pow_pos _) (by decide)

/-- `PINS_MASK` has the bits of the pins that exist (R14, R42). -/
theorem pinsMask_testBit {p : Params} (h : p.nPins ≤ p.width) (n : Nat) : (pinsMask p).testBit n = decide (n < p.nPins) := by
  unfold pinsMask
  split
  · simp [Nat.shiftLeft_eq]
  · rw [Nat.le_antisymm h (Nat.le_of_not_lt ‹_›)]
    simp

/-- A word in range names pins that exist, so it has the width of a word. -/
theorem fits_of_pins {p : Params} {v : Word} (h : andNot v (pinsMask p) = 0) : v < 2 ^ p.width :=
  lt_two_pow_of_bits (pinsMask_lt p) (andNot_eq_zero.mp h)

end Sys2Proof
end

