-- ==== Sys2Proof/Laws/State.lean ====
section
/-! SUPPORT. The laws of the state's updates: one lemma for each field of each update, and the laws of a controller's status
fields and port log under a bus write. -/

namespace Sys2Proof.Machine

@[simp] theorem setCtrl_par (c : Nat) (ctl : Ctrl) (s : State) : (setCtrl c ctl s).par = s.par := rfl
@[simp] theorem setCtrl_ctrl (c : Nat) (ctl : Ctrl) (s : State) : (setCtrl c ctl s).ctrl = s.ctrl.set c ctl := rfl
@[simp] theorem setCtrl_agent (c : Nat) (ctl : Ctrl) (s : State) : (setCtrl c ctl s).agent = s.agent := rfl
@[simp] theorem setCtrl_fault (c : Nat) (ctl : Ctrl) (s : State) : (setCtrl c ctl s).fault = s.fault := rfl
@[simp] theorem setCtrl_refused (c : Nat) (ctl : Ctrl) (s : State) : (setCtrl c ctl s).refused = s.refused := rfl
@[simp] theorem setCtrl_trace (c : Nat) (ctl : Ctrl) (s : State) : (setCtrl c ctl s).trace = s.trace := rfl
@[simp] theorem setCtrl_cur (c : Nat) (ctl : Ctrl) (s : State) : (setCtrl c ctl s).cur = s.cur := rfl
@[simp] theorem setCtrl_turns (c : Nat) (ctl : Ctrl) (s : State) : (setCtrl c ctl s).turns = s.turns := rfl
@[simp] theorem setCtrl_draws (c : Nat) (ctl : Ctrl) (s : State) : (setCtrl c ctl s).draws = s.draws := rfl

@[simp] theorem updAgent_par (f : Agent → Agent) (s : State) : (updAgent f s).par = s.par := rfl
@[simp] theorem updAgent_ctrl (f : Agent → Agent) (s : State) : (updAgent f s).ctrl = s.ctrl := rfl
@[simp] theorem updAgent_agent (f : Agent → Agent) (s : State) : (updAgent f s).agent = s.agent.modify s.cur f := rfl
@[simp] theorem updAgent_fault (f : Agent → Agent) (s : State) : (updAgent f s).fault = s.fault := rfl
@[simp] theorem updAgent_refused (f : Agent → Agent) (s : State) : (updAgent f s).refused = s.refused := rfl
@[simp] theorem updAgent_trace (f : Agent → Agent) (s : State) : (updAgent f s).trace = s.trace := rfl
@[simp] theorem updAgent_cur (f : Agent → Agent) (s : State) : (updAgent f s).cur = s.cur := rfl
@[simp] theorem updAgent_turns (f : Agent → Agent) (s : State) : (updAgent f s).turns = s.turns := rfl
@[simp] theorem updAgent_draws (f : Agent → Agent) (s : State) : (updAgent f s).draws = s.draws := rfl

@[simp] theorem logEvent_par (e : Event) (s : State) : (logEvent e s).par = s.par := rfl
@[simp] theorem logEvent_ctrl (e : Event) (s : State) : (logEvent e s).ctrl = s.ctrl := rfl
@[simp] theorem logEvent_agent (e : Event) (s : State) : (logEvent e s).agent = s.agent := rfl
@[simp] theorem logEvent_fault (e : Event) (s : State) : (logEvent e s).fault = s.fault := rfl
@[simp] theorem logEvent_refused (e : Event) (s : State) : (logEvent e s).refused = s.refused := rfl
@[simp] theorem logEvent_trace (e : Event) (s : State) : (logEvent e s).trace = s.trace ++ [e] := rfl
@[simp] theorem logEvent_cur (e : Event) (s : State) : (logEvent e s).cur = s.cur := rfl
@[simp] theorem logEvent_turns (e : Event) (s : State) : (logEvent e s).turns = s.turns := rfl
@[simp] theorem logEvent_draws (e : Event) (s : State) : (logEvent e s).draws = s.draws := rfl

@[simp] theorem setTmp_par (v : Option Word) (s : State) : (setTmp v s).par = s.par := rfl
@[simp] theorem setTmp_ctrl (v : Option Word) (s : State) : (setTmp v s).ctrl = s.ctrl := rfl
@[simp] theorem setTmp_agent (v : Option Word) (s : State) : (setTmp v s).agent = s.agent.modify s.cur (fun ag => { ag with tmp := v }) := rfl
@[simp] theorem setTmp_fault (v : Option Word) (s : State) : (setTmp v s).fault = s.fault := rfl
@[simp] theorem setTmp_refused (v : Option Word) (s : State) : (setTmp v s).refused = s.refused := rfl
@[simp] theorem setTmp_trace (v : Option Word) (s : State) : (setTmp v s).trace = s.trace := rfl
@[simp] theorem setTmp_cur (v : Option Word) (s : State) : (setTmp v s).cur = s.cur := rfl
@[simp] theorem setTmp_turns (v : Option Word) (s : State) : (setTmp v s).turns = s.turns := rfl
@[simp] theorem setTmp_draws (v : Option Word) (s : State) : (setTmp v s).draws = s.draws := rfl

@[simp] theorem setRet_par (v : Word) (s : State) : (setRet v s).par = s.par := rfl
@[simp] theorem setRet_ctrl (v : Word) (s : State) : (setRet v s).ctrl = s.ctrl := rfl
@[simp] theorem setRet_agent (v : Word) (s : State) : (setRet v s).agent = s.agent.modify s.cur (fun ag => { ag with ret := some v }) := rfl
@[simp] theorem setRet_fault (v : Word) (s : State) : (setRet v s).fault = s.fault := rfl
@[simp] theorem setRet_refused (v : Word) (s : State) : (setRet v s).refused = s.refused := rfl
@[simp] theorem setRet_trace (v : Word) (s : State) : (setRet v s).trace = s.trace := rfl
@[simp] theorem setRet_cur (v : Word) (s : State) : (setRet v s).cur = s.cur := rfl
@[simp] theorem setRet_turns (v : Word) (s : State) : (setRet v s).turns = s.turns := rfl
@[simp] theorem setRet_draws (v : Word) (s : State) : (setRet v s).draws = s.draws := rfl

@[simp] theorem advance_par (n : Nat) (s : State) : (advance n s).par = s.par := rfl
@[simp] theorem advance_ctrl (n : Nat) (s : State) : (advance n s).ctrl = s.ctrl := rfl
@[simp] theorem advance_agent (n : Nat) (s : State) : (advance n s).agent = s.agent.modify s.cur (fun ag => { ag with pc := ag.pc.succ n }) := rfl
@[simp] theorem advance_fault (n : Nat) (s : State) : (advance n s).fault = s.fault := rfl
@[simp] theorem advance_refused (n : Nat) (s : State) : (advance n s).refused = s.refused := rfl
@[simp] theorem advance_trace (n : Nat) (s : State) : (advance n s).trace = s.trace := rfl
@[simp] theorem advance_cur (n : Nat) (s : State) : (advance n s).cur = s.cur := rfl
@[simp] theorem advance_turns (n : Nat) (s : State) : (advance n s).turns = s.turns := rfl
@[simp] theorem advance_draws (n : Nat) (s : State) : (advance n s).draws = s.draws := rfl

@[simp] theorem countDraw_par (s : State) : (countDraw s).par = s.par := rfl
@[simp] theorem countDraw_ctrl (s : State) : (countDraw s).ctrl = s.ctrl := rfl
@[simp] theorem countDraw_agent (s : State) : (countDraw s).agent = s.agent := rfl
@[simp] theorem countDraw_fault (s : State) : (countDraw s).fault = s.fault := rfl
@[simp] theorem countDraw_refused (s : State) : (countDraw s).refused = s.refused := rfl
@[simp] theorem countDraw_trace (s : State) : (countDraw s).trace = s.trace := rfl
@[simp] theorem countDraw_cur (s : State) : (countDraw s).cur = s.cur := rfl
@[simp] theorem countDraw_turns (s : State) : (countDraw s).turns = s.turns := rfl
@[simp] theorem countDraw_draws (s : State) : (countDraw s).draws = s.draws + 1 := rfl

@[simp] theorem issueTo_par (a : Nat) (s : State) : (issueTo a s).par = s.par := rfl
@[simp] theorem issueTo_ctrl (a : Nat) (s : State) : (issueTo a s).ctrl = s.ctrl := rfl
@[simp] theorem issueTo_agent (a : Nat) (s : State) : (issueTo a s).agent = s.agent := rfl
@[simp] theorem issueTo_fault (a : Nat) (s : State) : (issueTo a s).fault = s.fault := rfl
@[simp] theorem issueTo_refused (a : Nat) (s : State) : (issueTo a s).refused = s.refused := rfl
@[simp] theorem issueTo_trace (a : Nat) (s : State) : (issueTo a s).trace = s.trace := rfl
@[simp] theorem issueTo_cur (a : Nat) (s : State) : (issueTo a s).cur = a := rfl
@[simp] theorem issueTo_turns (a : Nat) (s : State) : (issueTo a s).turns = s.turns + 1 := rfl
@[simp] theorem issueTo_draws (a : Nat) (s : State) : (issueTo a s).draws = s.draws := rfl

@[simp] theorem resetEvent_par (s : State) : (resetEvent s).par = s.par := rfl
@[simp] theorem resetEvent_ctrl (s : State) : (resetEvent s).ctrl = List.replicate s.par.nCtrl (Ctrl.reset s.par) := rfl
@[simp] theorem resetEvent_agent (s : State) :
    (resetEvent s).agent = s.agent.map (fun ag => { ag with pc := { k := 0, j := 0 }, tmp := none, ret := none }) := rfl
@[simp] theorem resetEvent_fault (s : State) : (resetEvent s).fault = none := rfl
@[simp] theorem resetEvent_refused (s : State) : (resetEvent s).refused = none := rfl
@[simp] theorem resetEvent_trace (s : State) : (resetEvent s).trace = [] := rfl
@[simp] theorem resetEvent_cur (s : State) : (resetEvent s).cur = s.cur := rfl
@[simp] theorem resetEvent_turns (s : State) : (resetEvent s).turns = s.turns := rfl
@[simp] theorem resetEvent_draws (s : State) : (resetEvent s).draws = s.draws := rfl

@[simp] theorem State.after_par (s : State) (c : Nat) (ctl : Ctrl) (ag : Agent) (es : List Event) : (s.after c ctl ag es).par = s.par := rfl
@[simp] theorem State.after_ctrl (s : State) (c : Nat) (ctl : Ctrl) (ag : Agent) (es : List Event) : (s.after c ctl ag es).ctrl = s.ctrl.set c ctl := rfl
@[simp] theorem State.after_agent (s : State) (c : Nat) (ctl : Ctrl) (ag : Agent) (es : List Event) : (s.after c ctl ag es).agent = s.agent.set s.cur ag := rfl
@[simp] theorem State.after_fault (s : State) (c : Nat) (ctl : Ctrl) (ag : Agent) (es : List Event) : (s.after c ctl ag es).fault = s.fault := rfl
@[simp] theorem State.after_refused (s : State) (c : Nat) (ctl : Ctrl) (ag : Agent) (es : List Event) : (s.after c ctl ag es).refused = s.refused := rfl
@[simp] theorem State.after_trace (s : State) (c : Nat) (ctl : Ctrl) (ag : Agent) (es : List Event) : (s.after c ctl ag es).trace = s.trace ++ es := rfl
@[simp] theorem State.after_cur (s : State) (c : Nat) (ctl : Ctrl) (ag : Agent) (es : List Event) : (s.after c ctl ag es).cur = s.cur := rfl
@[simp] theorem State.after_turns (s : State) (c : Nat) (ctl : Ctrl) (ag : Agent) (es : List Event) : (s.after c ctl ag es).turns = s.turns := rfl
@[simp] theorem State.after_draws (s : State) (c : Nat) (ctl : Ctrl) (ag : Agent) (es : List Event) : (s.after c ctl ag es).draws = s.draws := rfl

@[simp] theorem State.faulted_par (s : State) (r : FaultReason) (info : FaultInfo) : (s.faulted r info).par = s.par := rfl
@[simp] theorem State.faulted_ctrl (s : State) (r : FaultReason) (info : FaultInfo) : (s.faulted r info).ctrl = s.ctrl := rfl
@[simp] theorem State.faulted_agent (s : State) (r : FaultReason) (info : FaultInfo) : (s.faulted r info).agent = s.agent := rfl
@[simp] theorem State.faulted_fault (s : State) (r : FaultReason) (info : FaultInfo) : (s.faulted r info).fault = some (r, info) := rfl
@[simp] theorem State.faulted_refused (s : State) (r : FaultReason) (info : FaultInfo) : (s.faulted r info).refused = s.refused := rfl
@[simp] theorem State.faulted_trace (s : State) (r : FaultReason) (info : FaultInfo) : (s.faulted r info).trace = s.trace := rfl
@[simp] theorem State.faulted_cur (s : State) (r : FaultReason) (info : FaultInfo) : (s.faulted r info).cur = s.cur := rfl
@[simp] theorem State.faulted_turns (s : State) (r : FaultReason) (info : FaultInfo) : (s.faulted r info).turns = s.turns := rfl
@[simp] theorem State.faulted_draws (s : State) (r : FaultReason) (info : FaultInfo) : (s.faulted r info).draws = s.draws := rfl

@[simp] theorem State.refusedFor_par (s : State) (r : RefusalReason) : (s.refusedFor r).par = s.par := rfl
@[simp] theorem State.refusedFor_ctrl (s : State) (r : RefusalReason) : (s.refusedFor r).ctrl = s.ctrl := rfl
@[simp] theorem State.refusedFor_agent (s : State) (r : RefusalReason) : (s.refusedFor r).agent = s.agent := rfl
@[simp] theorem State.refusedFor_fault (s : State) (r : RefusalReason) : (s.refusedFor r).fault = s.fault := rfl
@[simp] theorem State.refusedFor_refused (s : State) (r : RefusalReason) : (s.refusedFor r).refused = some r := rfl
@[simp] theorem State.refusedFor_trace (s : State) (r : RefusalReason) : (s.refusedFor r).trace = s.trace := rfl
@[simp] theorem State.refusedFor_cur (s : State) (r : RefusalReason) : (s.refusedFor r).cur = s.cur := rfl
@[simp] theorem State.refusedFor_turns (s : State) (r : RefusalReason) : (s.refusedFor r).turns = s.turns := rfl
@[simp] theorem State.refusedFor_draws (s : State) (r : RefusalReason) : (s.refusedFor r).draws = s.draws := rfl

/-! ### A controller under a bus write -/

theorem PortLog.get_put (l : PortLog) (P Q : WritePort) (v : Word) :
    (l.put P v).get Q = if P = Q then v else l.get Q := by
  cases P <;> cases Q <;> rfl

theorem Ctrl.field_setField (ctl : Ctrl) (F G : StatusField) (v : Word) :
    (ctl.setField F v).field G = if F = G then v else ctl.field G := by
  cases F <;> cases G <;> rfl

@[simp] theorem Ctrl.setField_last (ctl : Ctrl) (F : StatusField) (v : Word) : (ctl.setField F v).last = ctl.last := by
  cases F <;> rfl

@[simp] theorem Ctrl.setField_clkEn (ctl : Ctrl) (F : StatusField) (v : Word) : (ctl.setField F v).clkEn = ctl.clkEn := by
  cases F <;> rfl

@[simp] theorem Ctrl.written_clkEn (ctl : Ctrl) (P : WritePort) (v : Word) : (ctl.written P v).clkEn = ctl.clkEn := by
  cases P <;> rfl

@[simp] theorem Ctrl.written_last (ctl : Ctrl) (P : WritePort) (v : Word) :
    (ctl.written P v).last = ctl.last.put P v := rfl

/-- A write changes its port's status field, as its kind says, and no other (R130). -/
theorem Ctrl.written_field (ctl : Ctrl) (P : WritePort) (v : Word) (F : StatusField) :
    (ctl.written P v).field F = if portField P = F then applyKind (portKind P) (ctl.field F) v else ctl.field F := by
  cases P <;> cases F <;> rfl

/-- Two controllers with the same fields, port logs and clock enable are the same. -/
theorem Ctrl.ext_fields {a b : Ctrl} (hf : ∀ F, a.field F = b.field F) (hl : ∀ P, a.last.get P = b.last.get P)
    (hc : a.clkEn = b.clkEn) : a = b := by
  obtain ⟨p, o, d, u, f, m, ⟨l1, l2, l3, l4, l5, l6, l7, l8, l9, l10⟩, c⟩ := a
  obtain ⟨p', o', d', u', f', m', ⟨l1', l2', l3', l4', l5', l6', l7', l8', l9', l10'⟩, c'⟩ := b
  have h := And.intro (hf .pioEn) (And.intro (hf .outEn) (And.intro (hf .outData) (And.intro (hf .puEn)
    (And.intro (hf .filtEn) (hf .mdEn)))))
  have k := And.intro (hl .pen) (And.intro (hl .den) (And.intro (hl .fen) (And.intro (hl .fdis) (And.intro (hl .oset)
    (And.intro (hl .oclr) (And.intro (hl .mden) (And.intro (hl .mddis) (And.intro (hl .pudis) (hl .puen)))))))))
  simp only [Ctrl.field] at h
  simp only [PortLog.get] at k
  simp only at hc
  simp [h, k, hc]

/-! ### The issuing agent -/

theorem curAgent_updAgent (f : Agent → Agent) (s : State) : curAgent (updAgent f s) = (curAgent s).map f := by
  simp [curAgent, updAgent]

theorem updAgent_updAgent (f g : Agent → Agent) (s : State) : updAgent g (updAgent f s) = updAgent (g ∘ f) s := by
  simp [updAgent, List.modify_modify_eq]

/-- Changing the issuing agent, where it is known, is replacing it. -/
theorem updAgent_eq {s : State} {ag : Agent} (h : s.agent[s.cur]? = some ag) (f : Agent → Agent) :
    updAgent f s = { s with agent := s.agent.set s.cur (f ag) } := by
  simp only [updAgent]
  congr 1
  apply List.ext_getElem?
  intro n
  rw [List.getElem?_modify, List.getElem?_set]
  by_cases hn : s.cur = n
  · subst hn
    simp [h]
    exact (List.getElem?_eq_some_iff.mp h).1
  · simp [hn]

end Sys2Proof.Machine
end

