-- ==== Sys2Proof/Laws/Ops.lean ====
section
/-! SUPPORT. One law per shared operation, saying all it can do: later proofs cite these and do not unfold the operation. -/

namespace Sys2Proof.Machine

/-! ### Stopping -/

theorem haltedBy_none {s : State} : haltedBy s = none ↔ s.running := by
  unfold haltedBy State.running
  split
  · rename_i h; simp [h]
  · rename_i h; split <;> rename_i h' <;> simp [h, h']

theorem haltedBy_some {s : State} {o : Result} (h : haltedBy s = some o) :
    (∃ r, o = .fault (.recorded r)) ∨ ∃ r, o = .refused (.recorded r) := by
  unfold haltedBy at h
  split at h
  · exact .inl ⟨_, (Option.some.inj h).symm⟩
  · split at h
    · exact .inr ⟨_, (Option.some.inj h).symm⟩
    · cases h

/-- If a step's end is a next state, the step completed, or it set one mark and changed nothing else (R233). -/
theorem conclude_next {s t : State} {x : Except Stop State} (h : conclude s x = .next t) :
    x = .ok t ∨ (∃ r info, x = .error (.fault r info) ∧ t = s.faulted r info) ∨
      ∃ r, x = .error (.refuse r) ∧ t = s.refusedFor r := by
  unfold conclude at h
  split at h <;> cases h
  · exact .inl rfl
  · exact .inr (.inl ⟨_, _, rfl, rfl⟩)
  · exact .inr (.inr ⟨_, rfl, rfl⟩)

/-! ### One access -/

theorem outOfRange_false {p : Params} {v : Word} : outOfRange p v = false ↔ pinsExist p v := by
  simp [outOfRange, pinsExist]

theorem outOfRange_true {p : Params} {v : Word} : outOfRange p v = true ↔ ¬ pinsExist p v := by
  simp [outOfRange, pinsExist]

/-- A bus write completes exactly where its controller exists, its clock is enabled and its data names existing pins; it
then changes the controller and the trace (R130). -/
theorem busWrite_ok {c : Nat} {P : WritePort} {v : Word} {s s' : State} :
    busWrite c P v s = .ok s' ↔
      ∃ ctl, s.clocked c ctl ∧ pinsExist s.par v ∧
        s' = logEvent (.write s.cur c P v) (setCtrl c (ctl.written P v) s) := by
  unfold busWrite State.clocked
  cases hc : s.ctrl[c]? with
  | none => simp
  | some ctl =>
    cases hk : ctl.clkEn with
    | false => simp [hk]
    | true =>
      cases hr : outOfRange s.par v with
      | true =>
        have := outOfRange_true.mp hr
        simp [hk, this]
      | false =>
        have := outOfRange_false.mp hr
        constructor
        · intro h
          exact ⟨ctl, ⟨rfl, hk⟩, this, by simpa [hk, hr] using h.symm⟩
        · rintro ⟨_, ⟨h, -⟩, -, rfl⟩
          cases h
          simp [hk]

/-- A bus read completes exactly where its controller exists and its clock is enabled; it then changes the trace, and the
count of draws where it took one (R160, R171). -/
theorem busRead_ok {c : Nat} {P : Port} {s s' : State} {r : Word} :
    busRead c P s = .ok (r, s') ↔
      (∃ ctl, s.clocked c ctl) ∧ r = (readValue P s).1 ∧ s' = logEvent (.read s.cur c P r) (readValue P s).2 := by
  unfold busRead State.clocked
  cases hc : s.ctrl[c]? with
  | none => simp
  | some ctl =>
    cases hk : ctl.clkEn with
    | false => simp [hk]
    | true =>
      simp only [hk, Bool.true_eq_false, if_false, Except.ok.injEq, Prod.mk.injEq, Option.some.injEq, exists_eq_left',
        true_and]
      constructor
      · rintro ⟨rfl, rfl⟩; exact ⟨rfl, rfl⟩
      · rintro ⟨rfl, rfl⟩; exact ⟨rfl, rfl⟩

/-- A read draws or does not: nothing but the count of draws changes. -/
theorem readValue_state (P : Port) (s : State) : (readValue P s).2 = s ∨ (readValue P s).2 = countDraw s := by
  unfold readValue
  split
  · split <;> simp
  · split; simp

theorem clockOn_ok {c : Nat} {s s' : State} :
    clockOn c s = .ok s' ↔
      ∃ ctl, s.ctrl[c]? = some ctl ∧ s' = logEvent (.clockEnable s.cur c) (setCtrl c { ctl with clkEn := true } s) := by
  unfold clockOn
  cases hc : s.ctrl[c]? with
  | none => simp
  | some ctl => simp [eq_comm]

/-! ### One micro-step -/

theorem micro_wr_ok {c : Nat} {P : WritePort} {v : Word} {s s' : State} :
    micro c (.wr P v) s = .ok s' ↔
      ∃ ctl, s.clocked c ctl ∧ pinsExist s.par v ∧
        s' = logEvent (.write s.cur c P v) (setCtrl c (ctl.written P v) s) := busWrite_ok

theorem micro_wro_ok {c : Nat} {P : WritePort} {k : Word} {s s' : State} :
    micro c (.wro P k) s = .ok s' ↔
      ∃ ctl x, curTmp s = some x ∧ s.clocked c ctl ∧ pinsExist s.par (x ||| k) ∧
        s' = logEvent (.write s.cur c P (x ||| k)) (setCtrl c (ctl.written P (x ||| k)) (setTmp none s)) := by
  simp only [micro]
  cases hx : curTmp s with
  | none => simp
  | some x =>
    simp only [busWrite_ok, State.clocked, setTmp_ctrl, setTmp_par, setTmp_cur, Option.some.injEq]
    constructor
    · rintro ⟨ctl, h⟩; exact ⟨ctl, x, rfl, h⟩
    · rintro ⟨ctl, _, rfl, h⟩; exact ⟨ctl, h⟩

theorem micro_rd_ok {c : Nat} {P : WritePort} {s s' : State} :
    micro c (.rd P) s = .ok s' ↔
      (∃ ctl, s.clocked c ctl) ∧
        s' = setTmp (some (readValue (.wo P) s).1)
          (logEvent (.read s.cur c (.wo P) (readValue (.wo P) s).1) (readValue (.wo P) s).2) := by
  simp only [micro]
  cases hb : busRead c (.wo P) s with
  | error e =>
    have : ¬ ∃ ctl, s.clocked c ctl := fun h => by
      have := (busRead_ok (P := .wo P)).mpr ⟨h, rfl, rfl⟩
      rw [hb] at this; cases this
    simp [this]
  | ok x =>
    obtain ⟨r, s₁⟩ := x
    obtain ⟨h, rfl, rfl⟩ := busRead_ok.mp hb
    simp [h, eq_comm]

theorem micro_rdl_ok {c : Nat} {k : Word} {s s' : State} :
    micro c (.rdl k) s = .ok s' ↔
      (∃ ctl, s.clocked c ctl) ∧
        s' = setRet ((readValue .level s).1 &&& k)
          (logEvent (.read s.cur c .level (readValue .level s).1) (readValue .level s).2) := by
  simp only [micro]
  cases hb : busRead c .level s with
  | error e =>
    have : ¬ ∃ ctl, s.clocked c ctl := fun h => by
      have := (busRead_ok (P := .level)).mpr ⟨h, rfl, rfl⟩
      rw [hb] at this; cases this
    simp [this]
  | ok x =>
    obtain ⟨r, s₁⟩ := x
    obtain ⟨h, rfl, rfl⟩ := busRead_ok.mp hb
    simp [h, eq_comm]

theorem micro_rdRet_ok {c : Nat} {P : Port} {s s' : State} :
    micro c (.rdRet P) s = .ok s' ↔
      (∃ ctl, s.clocked c ctl) ∧
        s' = setRet (readValue P s).1 (logEvent (.read s.cur c P (readValue P s).1) (readValue P s).2) := by
  simp only [micro]
  cases hb : busRead c P s with
  | error e =>
    have : ¬ ∃ ctl, s.clocked c ctl := fun h => by
      have := (busRead_ok (P := P)).mpr ⟨h, rfl, rfl⟩
      rw [hb] at this; cases this
    simp [this]
  | ok x =>
    obtain ⟨r, s₁⟩ := x
    obtain ⟨h, rfl, rfl⟩ := busRead_ok.mp hb
    simp [h, eq_comm]

theorem micro_clk_ok {c : Nat} {s s' : State} :
    micro c .clk s = .ok s' ↔
      ∃ ctl, s.ctrl[c]? = some ctl ∧
        s' = logEvent (.clockEnable s.cur c) (setCtrl c { ctl with clkEn := true } s) := clockOn_ok

/-- What a completed micro-step can do to its controller. -/
inductive CtrlChange (p : Params) (ctl : Ctrl) : MicroOp → Ctrl → Prop
  | wr (P v) : ctl.clkEn = true → pinsExist p v → CtrlChange p ctl (.wr P v) (ctl.written P v)
  | wro (P k x) : ctl.clkEn = true → pinsExist p (x ||| k) → CtrlChange p ctl (.wro P k) (ctl.written P (x ||| k))
  | rd (P) : ctl.clkEn = true → CtrlChange p ctl (.rd P) ctl
  | rdl (k) : ctl.clkEn = true → CtrlChange p ctl (.rdl k) ctl
  | rdRet (P) : ctl.clkEn = true → CtrlChange p ctl (.rdRet P) ctl
  | clk : CtrlChange p ctl .clk { ctl with clkEn := true }

/-- What a completed micro-step can do to its agent: `tmp` is set by a read of an "OR into" pair and taken by its write,
`ret` is set by the reads that return a result (R33, R34); the program and the position stay. -/
inductive AgentChange (ag : Agent) : MicroOp → Agent → Prop
  | wr (P v) : AgentChange ag (.wr P v) ag
  | wro (P k) : AgentChange ag (.wro P k) { ag with tmp := none }
  | rd (P r) : AgentChange ag (.rd P) { ag with tmp := some r }
  | rdl (k r) : AgentChange ag (.rdl k) { ag with ret := some (r &&& k) }
  | rdRet (P r) : AgentChange ag (.rdRet P) { ag with ret := some r }
  | clk : AgentChange ag .clk ag

theorem set_getElem?_self {α : Type} {l : List α} {n : Nat} {x : α} (h : l[n]? = some x) : l.set n x = l := by
  apply List.ext_getElem?
  intro m
  rw [List.getElem?_set]
  by_cases hm : n = m
  · subst hm
    simp [h]
    exact (List.getElem?_eq_some_iff.mp h).1
  · simp [hm]

/-- Everything a completed micro-step can do: one controller changes as `CtrlChange` says, the issuing agent as
`AgentChange` says, one event is appended to the trace, at most one word is drawn, and nothing else changes. -/
theorem micro_shape {c : Nat} {m : MicroOp} {s s' : State} {ag : Agent} (hag : s.agent[s.cur]? = some ag)
    (h : micro c m s = .ok s') :
    ∃ ctl ctl' ag' e d, s.ctrl[c]? = some ctl ∧ CtrlChange s.par ctl m ctl' ∧ AgentChange ag m ag' ∧
      (d = s.draws ∨ d = s.draws + 1) ∧
      s' = { s with ctrl := s.ctrl.set c ctl', agent := s.agent.set s.cur ag', trace := s.trace ++ [e], draws := d } := by
  have hself := set_getElem?_self hag
  cases m with
  | wr P v =>
    obtain ⟨ctl, ⟨hc, hk⟩, hv, rfl⟩ := micro_wr_ok.mp h
    exact ⟨ctl, _, ag, .write s.cur c P v, _, hc, .wr P v hk hv, .wr P v, .inl rfl, by simp [logEvent, setCtrl, hself]⟩
  | wro P k =>
    obtain ⟨ctl, x, -, ⟨hc, hk⟩, hv, rfl⟩ := micro_wro_ok.mp h
    refine ⟨ctl, _, _, .write s.cur c P (x ||| k), _, hc, .wro P k x hk hv, .wro P k, .inl rfl, ?_⟩
    rw [setTmp, updAgent_eq hag]; rfl
  | rd P =>
    obtain ⟨⟨ctl, hc, hk⟩, rfl⟩ := micro_rd_ok.mp h
    have hset := set_getElem?_self hc
    rcases readValue_state (.wo P) s with e | e <;> rw [e]
    · refine ⟨ctl, _, _, .read s.cur c (.wo P) (readValue (.wo P) s).1, _, hc, .rd P hk, .rd P (readValue (.wo P) s).1, .inl rfl, ?_⟩
      rw [setTmp, updAgent_eq (ag := ag) (by simpa using hag)]; simp [logEvent, hset]
    · refine ⟨ctl, _, _, .read s.cur c (.wo P) (readValue (.wo P) s).1, _, hc, .rd P hk, .rd P (readValue (.wo P) s).1, .inr rfl, ?_⟩
      rw [setTmp, updAgent_eq (ag := ag) (by simpa using hag)]; simp [logEvent, countDraw, hset]
  | rdl k =>
    obtain ⟨⟨ctl, hc, hk⟩, rfl⟩ := micro_rdl_ok.mp h
    have hset := set_getElem?_self hc
    rcases readValue_state .level s with e | e <;> rw [e]
    · refine ⟨ctl, _, _, .read s.cur c .level (readValue .level s).1, _, hc, .rdl k hk, .rdl k (readValue .level s).1, .inl rfl, ?_⟩
      rw [setRet, updAgent_eq (ag := ag) (by simpa using hag)]; simp [logEvent, hset]
    · refine ⟨ctl, _, _, .read s.cur c .level (readValue .level s).1, _, hc, .rdl k hk, .rdl k (readValue .level s).1, .inr rfl, ?_⟩
      rw [setRet, updAgent_eq (ag := ag) (by simpa using hag)]; simp [logEvent, countDraw, hset]
  | rdRet P =>
    obtain ⟨⟨ctl, hc, hk⟩, rfl⟩ := micro_rdRet_ok.mp h
    have hset := set_getElem?_self hc
    rcases readValue_state P s with e | e <;> rw [e]
    · refine ⟨ctl, _, _, .read s.cur c P (readValue P s).1, _, hc, .rdRet P hk, .rdRet P (readValue P s).1, .inl rfl, ?_⟩
      rw [setRet, updAgent_eq (ag := ag) (by simpa using hag)]; simp [logEvent, hset]
    · refine ⟨ctl, _, _, .read s.cur c P (readValue P s).1, _, hc, .rdRet P hk, .rdRet P (readValue P s).1, .inr rfl, ?_⟩
      rw [setRet, updAgent_eq (ag := ag) (by simpa using hag)]; simp [logEvent, countDraw, hset]
  | clk =>
    obtain ⟨ctl, hc, rfl⟩ := micro_clk_ok.mp h
    exact ⟨ctl, _, ag, .clockEnable s.cur c, _, hc, .clk, .clk, .inl rfl, by simp [logEvent, setCtrl, hself]⟩

theorem curTmp_eq {s : State} {ag : Agent} (hag : s.agent[s.cur]? = some ag) : curTmp s = ag.tmp := by
  simp [curTmp, curAgent, hag]

theorem curPos_eq {s : State} {ag : Agent} (hag : s.agent[s.cur]? = some ag) : curPos s = ag.pc := by
  simp [curPos, curAgent, hag]

/-! ### Issuing -/

/-- Every instruction issues the micro-step its agent stands at, of its expansion, behind its entry checks. -/
theorem exec_eq_issue (i : Instr) (s : State) : exec i s = issue (checkOf i) i.ctrlIndex (expand s.par i) s := by
  cases i <;> rfl

/-- What issuing does where the agent stands at micro-step `m` and the entry checks of micro-step 0 pass. -/
theorem issue_micro {check : State → Option Stop} {c : Nat} {ms : List MicroOp} {s : State} {ag : Agent} {j : Nat}
    {m : MicroOp} (hs : s.standsAt ag j) (hm : ms[j]? = some m) (hchk : j = 0 → check s = none) :
    issue check c ms s =
      conclude s (match micro c m s with
        | .ok s' => .ok (advance ms.length s')
        | .error e => .error e) := by
  obtain ⟨hr, hag, rfl⟩ := hs
  have hh := haltedBy_none.mpr hr
  simp only [issue, hh, issueStep, curAgent, hag, hm]
  split
  · rename_i e he
    split at he
    · rename_i h0; rw [hchk h0] at he; cases he
    · cases he
  · rfl

/-- What issuing does where a check of micro-step 0 fails. -/
theorem issue_check {check : State → Option Stop} {c : Nat} {ms : List MicroOp} {s : State} {ag : Agent} {m : MicroOp}
    {e : Stop} (hs : s.standsAt ag 0) (hm : ms[0]? = some m) (hchk : check s = some e) :
    issue check c ms s = conclude s (.error e) := by
  obtain ⟨hr, hag, hj⟩ := hs
  have hh := haltedBy_none.mpr hr
  simp [issue, hh, issueStep, curAgent, hag, hj, hm, hchk]

/-- Everything issuing can do, if it answers a next state: the machine was running, and the step set one mark and changed
nothing else, or it performed the micro-step the agent stood at and moved the agent on. -/
theorem issue_next {check : State → Option Stop} {c : Nat} {ms : List MicroOp} {s t : State}
    (h : issue check c ms s = .next t) :
    s.running ∧ ∃ ag m, s.agent[s.cur]? = some ag ∧ ms[ag.pc.j]? = some m ∧
      ((∃ r info, t = s.faulted r info) ∨ (∃ r, t = s.refusedFor r) ∨
        (ag.pc.j = 0 → check s = none) ∧ ∃ s', micro c m s = .ok s' ∧ t = advance ms.length s') := by
  unfold issue at h
  split at h
  · rename_i o ho
    rcases haltedBy_some ho with ⟨r, rfl⟩ | ⟨r, rfl⟩ <;> cases h
  · rename_i hh
    refine ⟨haltedBy_none.mp hh, ?_⟩
    have key := conclude_next h
    unfold issueStep at key
    cases hag : curAgent s with
    | none => rw [hag] at key; simp at key
    | some ag =>
      rw [hag] at key
      cases hm : ms[ag.pc.j]? with
      | none => simp only [hm] at key; simp at key
      | some m =>
        simp only [hm] at key
        refine ⟨ag, m, hag, hm, ?_⟩
        rcases key with key | ⟨r, info, -, rfl⟩ | ⟨r, -, rfl⟩
        · right; right
          split at key
          · cases key
          · rename_i hc
            constructor
            · intro h0; simpa [h0] using hc
            · cases hmic : micro c m s with
              | ok s' => rw [hmic] at key; exact ⟨s', rfl, (Except.ok.inj key).symm⟩
              | error e => rw [hmic] at key; cases key
        · exact .inl ⟨r, info, rfl⟩
        · exact .inr (.inl ⟨r, rfl⟩)

/-- Everything an instruction can do, if it answers a next state (R190, R233): it set one mark and changed nothing else,
or one micro-step completed, with one controller and the issuing agent changed as `CtrlChange` and `AgentChange` say. -/
theorem exec_next {i : Instr} {s t : State} (h : exec i s = .next t) :
    s.running ∧ ∃ ag m, s.agent[s.cur]? = some ag ∧ (expand s.par i)[ag.pc.j]? = some m ∧
      ((∃ r info, t = s.faulted r info) ∨ (∃ r, t = s.refusedFor r) ∨
        ∃ ctl ctl' ag' e d, s.ctrl[i.ctrlIndex]? = some ctl ∧ CtrlChange s.par ctl m ctl' ∧ AgentChange ag m ag' ∧
          (d = s.draws ∨ d = s.draws + 1) ∧
          t = { s with ctrl := s.ctrl.set i.ctrlIndex ctl',
                       agent := s.agent.set s.cur { ag' with pc := ag.pc.succ (expand s.par i).length },
                       trace := s.trace ++ [e], draws := d }) := by
  rw [exec_eq_issue] at h
  obtain ⟨hr, ag, m, hag, hm, h⟩ := issue_next h
  refine ⟨hr, ag, m, hag, hm, ?_⟩
  rcases h with h | h | ⟨-, s', hmic, rfl⟩
  · exact .inl h
  · exact .inr (.inl h)
  · right; right
    obtain ⟨ctl, ctl', ag', e, d, hc, hcc, hac, hd, rfl⟩ := micro_shape hag hmic
    refine ⟨ctl, ctl', ag', e, d, hc, hcc, hac, hd, ?_⟩
    have hpc : ag'.pc = ag.pc := by cases hac <;> rfl
    have hlt := (List.getElem?_eq_some_iff.mp hag).1
    rw [advance, updAgent_eq (ag := ag') (by simp [hlt])]
    simp [List.set_set, hpc]

/-! ### Entry checks -/

theorem entryCheck_none {i : Instr} {c : Nat} {ws : List Word} {s : State} {ctl : Ctrl} (hc : s.clocked c ctl)
    (hw : ∀ v ∈ ws, pinsExist s.par v) : entryCheck i c ws s = none := by
  have hf : firstOutOfRange s.par ws = none := by
    rw [firstOutOfRange, List.find?_eq_none]
    intro v hv
    simpa using outOfRange_false.mpr (hw v hv)
  simp [entryCheck, hc.1, hc.2, hf]

/-! ### The step -/

/-- A step of the chosen agent is the instruction it stands at, issued to it. -/
theorem step_eq {s : State} {a : Nat} {i : Instr} (hr : s.running) (ha : chooseAgent s = some a)
    (hf : fetch (issueTo a s) = .ok i) : step s = exec i (issueTo a s) := by
  have hh := haltedBy_none.mpr hr
  simp [step, stepOf, hh, ha, hf]

/-- Everything a step of agent `a` can do, if it answers a next state: the selector was refused, or the decoded
instruction answered it. -/
theorem stepOf_next {a : Nat} {s t : State} (h : stepOf a s = .next t) :
    s.running ∧ ((∃ r, fetch (issueTo a s) = .error (.refuse r) ∧ t = (issueTo a s).refusedFor r) ∨
      ∃ i, fetch (issueTo a s) = .ok i ∧ exec i (issueTo a s) = .next t) := by
  unfold stepOf at h
  split at h
  · rename_i o ho
    rcases haltedBy_some ho with ⟨r, rfl⟩ | ⟨r, rfl⟩ <;> cases h
  · rename_i hh
    refine ⟨haltedBy_none.mp hh, ?_⟩
    cases hf : fetch (issueTo a s) with
    | ok i => rw [hf] at h; exact .inr ⟨i, rfl, h⟩
    | error e =>
      rw [hf] at h
      rcases conclude_next h with h' | ⟨r, info, h', rfl⟩ | ⟨r, h', rfl⟩
      · cases h'
      · exfalso
        have he : e = .fault r info := by simpa using h'
        rw [he] at hf
        unfold fetch at hf
        split at hf
        · cases hf
        · split at hf
          · cases hf
          · split at hf <;> cases hf
      · have he : e = .refuse r := by simpa using h'
        exact .inl ⟨r, by rw [he], rfl⟩

end Sys2Proof.Machine
end

