-- ==== Sys2Proof/Laws/Exec.lean ====
section
/-! SUPPORT. The next state of an instruction at each kind of micro-step, from the conditions of the rules: the completion
laws the result statements follow from. -/

namespace Sys2Proof.Machine

theorem modify_set {α : Type} (l : List α) (n : Nat) (f : α → α) (x : α) : (l.modify n f).set n x = l.set n x := by
  apply List.ext_getElem?
  intro m
  by_cases hm : n = m <;> simp [List.getElem?_set, hm]

/-- Where the agent stands at micro-step `m` of `i`, the entry checks pass and `m` completes, `exec` answers the state after
it, with the agent moved on. -/
theorem exec_completes {i : Instr} {s s' : State} {ag ag' : Agent} {j : Nat} {m : MicroOp} (hs : s.standsAt ag j)
    (hm : (expand s.par i)[j]? = some m) (hchk : j = 0 → checkOf i s = none) (hmic : micro i.ctrlIndex m s = .ok s')
    (hag' : s'.agent[s'.cur]? = some ag') :
    exec i s = .next { s' with
      agent := s'.agent.set s'.cur { ag' with pc := ag'.pc.succ (expand s.par i).length } } := by
  rw [exec_eq_issue, issue_micro hs hm hchk, hmic]
  simp only [conclude, advance, updAgent_eq hag']

/-- Where the micro-step ends in a stop, so does `exec`. -/
theorem exec_stops {i : Instr} {s : State} {ag : Agent} {j : Nat} {m : MicroOp} {e : Stop} (hs : s.standsAt ag j)
    (hm : (expand s.par i)[j]? = some m) (hchk : j = 0 → checkOf i s = none)
    (hmic : micro i.ctrlIndex m s = .error e) : exec i s = conclude s (.error e) := by
  rw [exec_eq_issue, issue_micro hs hm hchk, hmic]

/-- Where an entry check fails, so does `exec`. -/
theorem exec_check_stops {i : Instr} {s : State} {ag : Agent} {m : MicroOp} {e : Stop} (hs : s.standsAt ag 0)
    (hm : (expand s.par i)[0]? = some m) (hchk : checkOf i s = some e) : exec i s = conclude s (.error e) := by
  rw [exec_eq_issue, issue_check hs hm hchk]

theorem exec_wr {i : Instr} {s : State} {ag : Agent} {j : Nat} {P : WritePort} {v : Word} {ctl : Ctrl}
    (hs : s.standsAt ag j) (hm : (expand s.par i)[j]? = some (.wr P v)) (hchk : j = 0 → checkOf i s = none)
    (hc : s.clocked i.ctrlIndex ctl) (hv : pinsExist s.par v) :
    exec i s = .next (s.after i.ctrlIndex (ctl.written P v) { ag with pc := ag.pc.succ (expand s.par i).length }
      [.write s.cur i.ctrlIndex P v]) :=
  exec_completes hs hm hchk (micro_wr_ok.mpr ⟨ctl, hc, hv, rfl⟩) hs.2.1

theorem exec_wro {i : Instr} {s : State} {ag : Agent} {j : Nat} {P : WritePort} {k x : Word} {ctl : Ctrl}
    (hs : s.standsAt ag j) (hm : (expand s.par i)[j]? = some (.wro P k)) (hchk : j = 0 → checkOf i s = none)
    (ht : ag.tmp = some x) (hc : s.clocked i.ctrlIndex ctl) (hv : pinsExist s.par (x ||| k)) :
    exec i s = .next (s.after i.ctrlIndex (ctl.written P (x ||| k))
      { ag with tmp := none, pc := ag.pc.succ (expand s.par i).length } [.write s.cur i.ctrlIndex P (x ||| k)]) := by
  have hag := hs.2.1
  have hlt := (List.getElem?_eq_some_iff.mp hag).1
  rw [exec_completes (ag' := { ag with tmp := none }) hs hm hchk
    (micro_wro_ok.mpr ⟨ctl, x, by rw [curTmp_eq hag, ht], hc, hv, rfl⟩)]
  · simp [State.after, logEvent, setCtrl, setTmp, updAgent_eq hag, List.set_set]
  · simp [setTmp, updAgent_eq hag, hlt]

/-- What a read of port `P` returns (R160, R171). -/
def readWord (P : Port) (s : State) : Word := (readValue P s).1

/-- The count of draws after a read of port `P`. -/
def drawsAfter (P : Port) (s : State) : Nat := (readValue P s).2.draws

theorem readValue_eq (P : Port) (s : State) : (readValue P s).2 = { s with draws := drawsAfter P s } := by
  rcases readValue_state P s with h | h <;> simp [drawsAfter, h, countDraw]

theorem readWord_zero {P : WritePort} {s : State} (h : s.par.woRead = .zero) : readWord (.wo P) s = 0 := by
  simp [readWord, readValue, h]

theorem drawsAfter_zero {P : WritePort} {s : State} (h : s.par.woRead = .zero) : drawsAfter (.wo P) s = s.draws := by
  simp [drawsAfter, readValue, h]

theorem readWord_draw {P : WritePort} {s : State} (h : s.par.woRead = .draw) :
    readWord (.wo P) s = drawn s := by
  simp [readWord, readValue, h]

theorem drawsAfter_draw {P : WritePort} {s : State} (h : s.par.woRead = .draw) :
    drawsAfter (.wo P) s = s.draws + 1 := by
  simp [drawsAfter, readValue, h]

theorem readWord_level (s : State) : readWord .level s = drawn s := by
  simp [readWord, readValue]

theorem drawsAfter_level (s : State) : drawsAfter .level s = s.draws + 1 := by
  simp [drawsAfter, readValue]

theorem exec_rd {i : Instr} {s : State} {ag : Agent} {j : Nat} {P : WritePort} {ctl : Ctrl}
    (hs : s.standsAt ag j) (hm : (expand s.par i)[j]? = some (.rd P)) (hchk : j = 0 → checkOf i s = none)
    (hc : s.clocked i.ctrlIndex ctl) :
    exec i s = .next { s with
      agent := s.agent.set s.cur { ag with tmp := some (readWord (.wo P) s), pc := ag.pc.succ (expand s.par i).length },
      trace := s.trace ++ [.read s.cur i.ctrlIndex (.wo P) (readWord (.wo P) s)],
      draws := drawsAfter (.wo P) s } := by
  have hag := hs.2.1
  rw [exec_completes (ag' := { ag with tmp := some (readWord (.wo P) s) }) hs hm hchk
    (micro_rd_ok.mpr ⟨⟨ctl, hc⟩, rfl⟩)]
  · simp [readValue_eq, setTmp, logEvent, modify_set, readWord]
  · simp [readValue_eq, setTmp, hag, readWord]

theorem exec_rdRet {i : Instr} {s : State} {ag : Agent} {j : Nat} {P : Port} {ctl : Ctrl}
    (hs : s.standsAt ag j) (hm : (expand s.par i)[j]? = some (.rdRet P)) (hchk : j = 0 → checkOf i s = none)
    (hc : s.clocked i.ctrlIndex ctl) :
    exec i s = .next { s with
      agent := s.agent.set s.cur { ag with ret := some (readWord P s), pc := ag.pc.succ (expand s.par i).length },
      trace := s.trace ++ [.read s.cur i.ctrlIndex P (readWord P s)],
      draws := drawsAfter P s } := by
  have hag := hs.2.1
  rw [exec_completes (ag' := { ag with ret := some (readWord P s) }) hs hm hchk
    (micro_rdRet_ok.mpr ⟨⟨ctl, hc⟩, rfl⟩)]
  · simp [readValue_eq, setRet, logEvent, modify_set, readWord]
  · simp [readValue_eq, setRet, hag, readWord]

theorem exec_rdl {i : Instr} {s : State} {ag : Agent} {j : Nat} {k : Word} {ctl : Ctrl}
    (hs : s.standsAt ag j) (hm : (expand s.par i)[j]? = some (.rdl k)) (hchk : j = 0 → checkOf i s = none)
    (hc : s.clocked i.ctrlIndex ctl) :
    exec i s = .next { s with
      agent := s.agent.set s.cur { ag with ret := some (readWord .level s &&& k),
                                           pc := ag.pc.succ (expand s.par i).length },
      trace := s.trace ++ [.read s.cur i.ctrlIndex .level (readWord .level s)],
      draws := drawsAfter .level s } := by
  have hag := hs.2.1
  rw [exec_completes (ag' := { ag with ret := some (readWord .level s &&& k) }) hs hm hchk
    (micro_rdl_ok.mpr ⟨⟨ctl, hc⟩, rfl⟩)]
  · simp [readValue_eq, setRet, logEvent, modify_set, readWord]
  · simp [readValue_eq, setRet, hag, readWord]

theorem exec_clk {i : Instr} {s : State} {ag : Agent} {j : Nat} {ctl : Ctrl}
    (hs : s.standsAt ag j) (hm : (expand s.par i)[j]? = some .clk) (hchk : j = 0 → checkOf i s = none)
    (hc : s.ctrl[i.ctrlIndex]? = some ctl) :
    exec i s = .next (s.after i.ctrlIndex { ctl with clkEn := true }
      { ag with pc := ag.pc.succ (expand s.par i).length } [.clockEnable s.cur i.ctrlIndex]) :=
  exec_completes hs hm hchk (micro_clk_ok.mpr ⟨ctl, hc, rfl⟩) hs.2.1

/-- Micro-step 0 of an operation with one micro-step ends the operation (R31). -/
theorem Pos.succ_one {p : Pos} : p.succ 1 = p.nextOp := by
  simp [Pos.succ, Pos.nextOp]

/-- The successor of a position inside an operation (R190). -/
theorem Pos.succ_of_lt {p : Pos} {n : Nat} (h : p.j + 1 < n) : p.succ n = p.nextMicro := by
  simp [Pos.succ, h, Pos.nextMicro]

/-- The successor of an operation's last position (R31). -/
theorem Pos.succ_of_not_lt {p : Pos} {n : Nat} (h : ¬ p.j + 1 < n) : p.succ n = p.nextOp := by
  simp [Pos.succ, h, Pos.nextOp]

/-- A state the agent has moved on in is one it stands in again. -/
theorem after_standsAt {s : State} {ag ag' : Agent} {j j' c : Nat} {ctl : Ctrl} {es : List Event} (hs : s.standsAt ag j)
    (hj : ag'.pc.j = j') : (s.after c ctl ag' es).standsAt ag' j' := by
  have hlt := (List.getElem?_eq_some_iff.mp hs.2.1).1
  exact ⟨hs.1, by simp [hlt], hj⟩

/-- The controller an access changed is the one found afterwards. -/
theorem after_clocked {s : State} {ag' : Agent} {c : Nat} {ctl ctl' : Ctrl} {es : List Event} (hc : s.clocked c ctl)
    (hk : ctl'.clkEn = true) : (s.after c ctl' ag' es).clocked c ctl' := by
  have hlt := (List.getElem?_eq_some_iff.mp hc.1).1
  exact ⟨by simp [hlt], hk⟩

/-- Two accesses to one controller by one agent, taken together. -/
theorem after_after (s : State) (c : Nat) (ctl ctl' : Ctrl) (ag ag' : Agent) (es es' : List Event) :
    (s.after c ctl ag es).after c ctl' ag' es' = s.after c ctl' ag' (es ++ es') := by
  simp [State.after, List.set_set]

/-- An access that leaves its controller as it was. -/
theorem after_same {s : State} {c : Nat} {ctl : Ctrl} (hc : s.ctrl[c]? = some ctl) (ag : Agent) (es : List Event) :
    s.after c ctl ag es = { s with agent := s.agent.set s.cur ag, trace := s.trace ++ es } := by
  simp [State.after, set_getElem?_self hc]

/-- A run of one more step, where the machine's first step answers a next state. -/
theorem core_run_succ {k : Nat} {s t : State} (h : step s = .next t) : Sys2Proof.core.run (k + 1) s = Sys2Proof.core.run k t := by
  have hrun : ∀ {M : Host.Core} (s t : M.State), M.step s = .next t → M.run (k + 1) s = M.run k t := by
    intro M s t h
    rw [Host.Core.run.eq_2, h]
  exact hrun (M := Sys2Proof.core) s t h

end Sys2Proof.Machine
end

