-- ==== Sys2Proof/Laws/PerInstr.lean ====
section
/-! SUPPORT. The family `CtrlOperand`, one lemma for each instruction: the record that encodes it names the instruction's own
controller, at any `REG_OFFSET` (R106). -/

/-- The controller of an instruction is the operand `c` of its encoding (R106). -/
def Sys2Proof.Laws.CtrlOperand.Statement (i : Sys2Proof.Instr) : Prop :=
  ∀ m : Sys2Proof.RegOffsets, (Sys2Proof.encode m i).operands.c = i.ctrlIndex

theorem Sys2Proof.Laws.CtrlOperand.wOset (c : Nat) (data : Sys2Proof.Word) :
    Sys2Proof.Laws.CtrlOperand.Statement (.wOset c data) := fun _ => rfl

theorem Sys2Proof.Laws.CtrlOperand.wOclr (c : Nat) (data : Sys2Proof.Word) :
    Sys2Proof.Laws.CtrlOperand.Statement (.wOclr c data) := fun _ => rfl

theorem Sys2Proof.Laws.CtrlOperand.wPuen (c : Nat) (data : Sys2Proof.Word) :
    Sys2Proof.Laws.CtrlOperand.Statement (.wPuen c data) := fun _ => rfl

theorem Sys2Proof.Laws.CtrlOperand.wPudis (c : Nat) (data : Sys2Proof.Word) :
    Sys2Proof.Laws.CtrlOperand.Statement (.wPudis c data) := fun _ => rfl

theorem Sys2Proof.Laws.CtrlOperand.wFen (c : Nat) (data : Sys2Proof.Word) :
    Sys2Proof.Laws.CtrlOperand.Statement (.wFen c data) := fun _ => rfl

theorem Sys2Proof.Laws.CtrlOperand.wFdis (c : Nat) (data : Sys2Proof.Word) :
    Sys2Proof.Laws.CtrlOperand.Statement (.wFdis c data) := fun _ => rfl

theorem Sys2Proof.Laws.CtrlOperand.wPen (c : Nat) (data : Sys2Proof.Word) :
    Sys2Proof.Laws.CtrlOperand.Statement (.wPen c data) := fun _ => rfl

theorem Sys2Proof.Laws.CtrlOperand.wDen (c : Nat) (data : Sys2Proof.Word) :
    Sys2Proof.Laws.CtrlOperand.Statement (.wDen c data) := fun _ => rfl

theorem Sys2Proof.Laws.CtrlOperand.wMden (c : Nat) (data : Sys2Proof.Word) :
    Sys2Proof.Laws.CtrlOperand.Statement (.wMden c data) := fun _ => rfl

theorem Sys2Proof.Laws.CtrlOperand.wMddis (c : Nat) (data : Sys2Proof.Word) :
    Sys2Proof.Laws.CtrlOperand.Statement (.wMddis c data) := fun _ => rfl

theorem Sys2Proof.Laws.CtrlOperand.rOset (c : Nat) :
    Sys2Proof.Laws.CtrlOperand.Statement (.rOset c) := fun _ => rfl

theorem Sys2Proof.Laws.CtrlOperand.rOclr (c : Nat) :
    Sys2Proof.Laws.CtrlOperand.Statement (.rOclr c) := fun _ => rfl

theorem Sys2Proof.Laws.CtrlOperand.rPuen (c : Nat) :
    Sys2Proof.Laws.CtrlOperand.Statement (.rPuen c) := fun _ => rfl

theorem Sys2Proof.Laws.CtrlOperand.rPudis (c : Nat) :
    Sys2Proof.Laws.CtrlOperand.Statement (.rPudis c) := fun _ => rfl

theorem Sys2Proof.Laws.CtrlOperand.rFen (c : Nat) :
    Sys2Proof.Laws.CtrlOperand.Statement (.rFen c) := fun _ => rfl

theorem Sys2Proof.Laws.CtrlOperand.rFdis (c : Nat) :
    Sys2Proof.Laws.CtrlOperand.Statement (.rFdis c) := fun _ => rfl

theorem Sys2Proof.Laws.CtrlOperand.rPen (c : Nat) :
    Sys2Proof.Laws.CtrlOperand.Statement (.rPen c) := fun _ => rfl

theorem Sys2Proof.Laws.CtrlOperand.rDen (c : Nat) :
    Sys2Proof.Laws.CtrlOperand.Statement (.rDen c) := fun _ => rfl

theorem Sys2Proof.Laws.CtrlOperand.rMden (c : Nat) :
    Sys2Proof.Laws.CtrlOperand.Statement (.rMden c) := fun _ => rfl

theorem Sys2Proof.Laws.CtrlOperand.rMddis (c : Nat) :
    Sys2Proof.Laws.CtrlOperand.Statement (.rMddis c) := fun _ => rfl

theorem Sys2Proof.Laws.CtrlOperand.rLevel (c : Nat) :
    Sys2Proof.Laws.CtrlOperand.Statement (.rLevel c) := fun _ => rfl

theorem Sys2Proof.Laws.CtrlOperand.setHigh (c : Nat) (mask : Sys2Proof.Word) :
    Sys2Proof.Laws.CtrlOperand.Statement (.setHigh c mask) := fun _ => rfl

theorem Sys2Proof.Laws.CtrlOperand.setLow (c : Nat) (mask : Sys2Proof.Word) :
    Sys2Proof.Laws.CtrlOperand.Statement (.setLow c mask) := fun _ => rfl

theorem Sys2Proof.Laws.CtrlOperand.cfgPullup (c : Nat) (mask : Sys2Proof.Word) (enable : Bool) :
    Sys2Proof.Laws.CtrlOperand.Statement (.cfgPullup c mask enable) := fun _ => rfl

theorem Sys2Proof.Laws.CtrlOperand.cfgInput (c : Nat) (mask : Sys2Proof.Word) (attrs : Sys2Proof.Word) :
    Sys2Proof.Laws.CtrlOperand.Statement (.cfgInput c mask attrs) := fun _ => rfl

theorem Sys2Proof.Laws.CtrlOperand.cfgOutput (c : Nat) (mask : Sys2Proof.Word) (level : Sys2Proof.Word) (multidrive : Bool) (pullup : Bool) :
    Sys2Proof.Laws.CtrlOperand.Statement (.cfgOutput c mask level multidrive pullup) := fun _ => rfl

theorem Sys2Proof.Laws.CtrlOperand.getLevel (c : Nat) (mask : Sys2Proof.Word) :
    Sys2Proof.Laws.CtrlOperand.Statement (.getLevel c mask) := fun _ => rfl

theorem Sys2Proof.Laws.CtrlOperand.clockEnable (c : Nat) :
    Sys2Proof.Laws.CtrlOperand.Statement (.clockEnable c) := fun _ => rfl
end

