-- ==== Sys2Proof/Tests/Slice0.lean ====
section
/-! SUPPORT. The model's own tests: an ill-formed term for each check, selectors written out bit by bit, one-step effects whose
expected values stand in spec/95_test_vectors.md (the row is named in each docstring), and a witness for the hypotheses of
every obligation (`witness_` and the obligation's name). -/

namespace Sys2Proof.Tests

open Sys2Proof Sys2Proof.Machine

/-! ### Small states -/

/-- Two controllers, two agents, `n` pins, two blocks. -/
def par (n : Nat) : Params := { Config.defaults 2 32 [0x1000, 0x2000] .little with nPins := n, nAgents := 2 }

/-- A controller as reset leaves it, with its clock enabled. -/
def ready : Ctrl := { Ctrl.reset (par 32) with clkEn := true }

/-- Right after reset but that controller 0 is `ctl`; the clock of controller 1 is not enabled. -/
def state (n : Nat) (ctl : Ctrl) : State := { State.resetWith (par n) with ctrl := [ctl, Ctrl.reset (par n)] }

/-- `state`, with the issuing agent at micro-step `j` and `tmp` in its `A.tmp`. -/
def stateAt (n : Nat) (ctl : Ctrl) (j : Nat) (tmp : Option Word) : State :=
  { state n ctl with agent := [{ Agent.reset with pc := { k := 0, j := j }, tmp := tmp }, Agent.reset] }

/-- `state`, with a program for agent 0. -/
def running (prog : List Op) : State :=
  { state 8 ready with agent := [{ Agent.reset with prog := prog }, Agent.reset] }

/-- The program element of `W_OSET 1` on controller 0. -/
def osetOp : Op := { sel := 0x4030, operands := { zeroOperands with data := 1 } }

/-- Controller 0 of the next state, if there is one and no mark is set. -/
def after : Result → Option Ctrl
  | .next t => if t.fault.isNone && t.refused.isNone then t.ctrl[0]? else none
  | _ => none

/-- The reason of the fault mark of the next state. -/
def faultOf : Result → Option FaultReason
  | .next t => t.fault.map Prod.fst
  | _ => none

/-- The refusal mark of the next state. -/
def refusalOf : Result → Option RefusalReason
  | .next t => t.refused
  | _ => none

/-- The result in the issuing agent's `A.ret` in the next state. -/
def retOf : Result → Option Word
  | .next t => (t.agent[0]?.map Agent.ret).getD none
  | _ => none

/-- A status field and a port log of controller 0 after an instruction. -/
def fieldAndLog (o : Result) (F : StatusField) (P : WritePort) : Option (Word × Word) :=
  (after o).map (fun ctl => (ctl.field F, ctl.last.get P))

/-! ### Well-formedness: a well-formed term, and an ill-formed one for each check -/

theorem test_wf_params : (par 8).wf = true ∧ (par 32).wf = true := by decide

theorem test_ill_formed_counts :
    (par 0).wf = false ∧ (par 33).wf = false ∧ { par 8 with nCtrl := 0, ctrlBase := [] }.wf = false ∧
    { par 8 with nAgents := 0 }.wf = false := by decide

/-- R11, R14: more pins than bits, and an attribute bit, a reset value and an operand wider than `W`. -/
theorem test_ill_formed_widths :
    { par 8 with width := 8 }.wf = true ∧ { par 9 with width := 8 }.wf = false ∧ { par 2 with width := 3 }.wf = false ∧
    { par 8 with width := 8, resetPuEn := 0x100 }.wf = false ∧
    (Instr.cfgInput 0 1 0x1FF).wf { par 8 with width := 8 } = false := by decide

/-- R72: a base missing, a base that is no multiple of 4, a block beyond the address space, two blocks that overlap. -/
theorem test_ill_formed_layout :
    { par 8 with ctrlBase := [0x1000] }.wf = false ∧ { par 8 with ctrlBase := [0x1002, 0x2000] }.wf = false ∧
    { par 8 with addrW := 13 }.wf = false ∧ { par 8 with ctrlBase := [0x1000, 0x11FC] }.wf = false := by decide

/-- R103: two ports at one offset, an offset that is no multiple of 4, an offset beyond the block. -/
theorem test_ill_formed_offsets :
    { par 8 with regOffset := { Config.regOffset with den := 0x000 } }.wf = false ∧
    { par 8 with regOffset := { Config.regOffset with den := 0x012 } }.wf = false ∧
    { par 8 with blockSize := 0x064 }.wf = false := by decide

/-- R106, R198: a controller that does not exist, a mask and a level that name a pin that does not exist; `attrs` is free. -/
theorem test_ill_formed_instructions :
    (Instr.setHigh 0 0x80).wf (par 8) = true ∧ (Instr.setHigh 2 0x80).wf (par 8) = false ∧
    (Instr.wOset 0 0x100).wf (par 8) = false ∧ (Instr.cfgOutput 0 1 0x100 false false).wf (par 8) = false ∧
    (Instr.cfgInput 0 1 0xFFFFFFFF).wf (par 8) = true := by decide

/-! ### Decoding: every row of the opcode table, bit by bit (R105, R107), and the refusals of L2-8 -/

theorem test_decode_bus_writes :
    decodeTableWord 16 0b0100000000110000 = some (.wOset 0 0) ∧
    decodeTableWord 16 0b0100000000110100 = some (.wOclr 0 0) ∧
    decodeTableWord 16 0b0100000001100100 = some (.wPuen 0 0) ∧
    decodeTableWord 16 0b0100000001100000 = some (.wPudis 0 0) ∧
    decodeTableWord 16 0b0100000000100000 = some (.wFen 0 0) ∧
    decodeTableWord 16 0b0100000000100100 = some (.wFdis 0 0) ∧
    decodeTableWord 16 0b0100000000000000 = some (.wPen 0 0) ∧
    decodeTableWord 16 0b0100000000010000 = some (.wDen 0 0) ∧
    decodeTableWord 16 0b0100000001010000 = some (.wMden 0 0) ∧
    decodeTableWord 16 0b0100000001010100 = some (.wMddis 0 0) := by decide

theorem test_decode_bus_reads :
    decodeTableWord 16 0b0000000000110000 = some (.rOset 0) ∧
    decodeTableWord 16 0b0000000000110100 = some (.rOclr 0) ∧
    decodeTableWord 16 0b0000000001100100 = some (.rPuen 0) ∧
    decodeTableWord 16 0b0000000001100000 = some (.rPudis 0) ∧
    decodeTableWord 16 0b0000000000100000 = some (.rFen 0) ∧
    decodeTableWord 16 0b0000000000100100 = some (.rFdis 0) ∧
    decodeTableWord 16 0b0000000000000000 = some (.rPen 0) ∧
    decodeTableWord 16 0b0000000000010000 = some (.rDen 0) ∧
    decodeTableWord 16 0b0000000001010000 = some (.rMden 0) ∧
    decodeTableWord 16 0b0000000001010100 = some (.rMddis 0) ∧
    decodeTableWord 16 0b0000000000111100 = some (.rLevel 0) := by decide

theorem test_decode_calls :
    decodeTableWord 16 0b1000000000000000 = some (.setHigh 0 0) ∧
    decodeTableWord 16 0b1000000000000001 = some (.setLow 0 0) ∧
    decodeTableWord 16 0b1000000000000010 = some (.cfgPullup 0 0 false) ∧
    decodeTableWord 16 0b1000000000000011 = some (.cfgInput 0 0 0) ∧
    decodeTableWord 16 0b1000000000000100 = some (.cfgOutput 0 0 0 false false) ∧
    decodeTableWord 16 0b1000000000000101 = some (.getLevel 0 0) ∧
    decodeTableWord 16 0b1000000000010000 = some (.clockEnable 0) := by decide

theorem test_refuse_readOnlyPort :
    decodeSel Config.regOffset 0x403C = .error .readOnlyPort := by decide

theorem test_refuse_misaligned :
    decodeSel Config.regOffset 0x0002 = .error .misaligned ∧
    decodeSel Config.regOffset 0x4031 = .error .misaligned := by decide

theorem test_refuse_unmappedOffset :
    decodeSel Config.regOffset 0x0004 = .error .unmappedOffset ∧
    decodeSel Config.regOffset 0x0008 = .error .unmappedOffset ∧
    decodeSel Config.regOffset 0x0068 = .error .unmappedOffset ∧
    decodeSel Config.regOffset 0x0200 = .error .unmappedOffset ∧
    decodeSel Config.regOffset 0x0FFC = .error .unmappedOffset := by decide

theorem test_refuse_reservedSelector :
    decodeSel Config.regOffset 0x1000 = .error .reservedSelector ∧
    decodeSel Config.regOffset 0x7030 = .error .reservedSelector ∧
    decodeSel Config.regOffset 0x8006 = .error .reservedSelector ∧
    decodeSel Config.regOffset 0x800F = .error .reservedSelector ∧
    decodeSel Config.regOffset 0x8104 = .error .reservedSelector ∧
    decodeSel Config.regOffset 0xC000 = .error .reservedSelector ∧
    decodeSel Config.regOffset 0xFFFF = .error .reservedSelector := by decide

/-- R108, R199: a `Bool` operand given as a word is true iff the word is nonzero. -/
theorem test_bool_operands :
    decode Config.regOffset { sel := 0x8002, operands := { zeroOperands with mask := 4, enable := .word 0x80000000 } }
      = .ok (.cfgPullup 0 4 true) ∧
    decode Config.regOffset { sel := 0x8002, operands := { zeroOperands with mask := 4, enable := .word 0 } }
      = .ok (.cfgPullup 0 4 false) := by decide

/-- R113: the textual syntax of a bus write, a bus read and a call. -/
theorem test_text : [Instr.wOset 0 1, .rLevel 0, .setHigh 0 1, .cfgOutput 0 1 1 false false, .cfgInput 0 1 9].map
      (Instr.text Config.params) =
    ["WR OSET, c0, 0x00000001", "RD LEVEL, c0", "set_high(c0, 0x01)", "configure_as_output(c0, 0x01, 0x01, false, false)",
      "configure_as_input(c0, 0x01, pullup|debounce)"] := by decide

/-- R231, R232: the codes. -/
theorem test_codes : [FaultReason.clockNotEnabled, .maskOutOfRange].map faultCode = [1, 2] ∧
    [RefusalReason.reservedSelector, .misaligned, .unmappedOffset, .readOnlyPort, .badWidth, .notThisBlock, .noSuchController,
      .notExecutable].map refusalCode = [16, 17, 18, 19, 20, 21, 22, 23] := by decide

/-! ### Effects, one step each -/

/-- R11, R73: a machine of 64-bit words with 64 pins: bit 63 is a pin, an access by address has 8 bytes, and 4 are refused. -/
theorem test_width_64 :
    fieldAndLog (exec (.wOset 0 0x8000000000000000) { state 64 ready with par := { par 64 with width := 64 } }) .outData .oset
      = some (0x8000000000000000, 0x8000000000000000) ∧
    (after (memWriteStep 0x1030 8 1 { state 64 ready with par := { par 64 with width := 64 } })).map Ctrl.outData = some 1 ∧
    refusalOf (memWriteStep 0x1030 4 1 { state 64 ready with par := { par 64 with width := 64 } }) = some .badWidth := by decide

/-- R11, R14: a machine of 16-bit words with 16 pins: its full word is in range, and bit 16 is no pin. -/
theorem test_width_16 :
    fieldAndLog (exec (.wOclr 0 0x00FF) { state 16 { ready with outData := 0xFFFF } with par := { par 16 with width := 16 } })
      .outData .oclr = some (0xFF00, 0x00FF) ∧
    faultOf (exec (.wOset 0 0x10000) { state 16 ready with par := { par 16 with width := 16 } }) = some .maskOutOfRange := by decide

/-- Row W1. -/
theorem test_W1_wOset : fieldAndLog (exec (.wOset 0 0x3) (state 32 { ready with outData := 0xC })) .outData .oset
    = some (0xF, 0x3) := by decide

/-- Row W3. -/
theorem test_W3_wOset : fieldAndLog (exec (.wOset 0 0x5) (state 32 { ready with outData := 0xF })) .outData .oset
    = some (0xF, 0x5) := by decide

/-- Row W4. -/
theorem test_W4_wOclr : fieldAndLog (exec (.wOclr 0 0x5) (state 32 { ready with outData := 0xF })) .outData .oclr
    = some (0xA, 0x5) := by decide

/-- Row W6. -/
theorem test_W6_wOclr : fieldAndLog (exec (.wOclr 0 0x5) (state 32 { ready with outData := 0xA })) .outData .oclr
    = some (0xA, 0x5) := by decide

/-- Row W7. -/
theorem test_W7_wPuen : fieldAndLog (exec (.wPuen 0 0x4) (state 32 { ready with puEn := 0x0 })) .puEn .puen
    = some (0x4, 0x4) := by decide

/-- Row W8. -/
theorem test_W8_wPudis : fieldAndLog (exec (.wPudis 0 0x2) (state 32 { ready with puEn := 0x6 })) .puEn .pudis
    = some (0x4, 0x2) := by decide

/-- Row W9. -/
theorem test_W9_wFen : fieldAndLog (exec (.wFen 0 0x4) (state 32 { ready with filtEn := 0x0 })) .filtEn .fen
    = some (0x4, 0x4) := by decide

/-- Row W10. -/
theorem test_W10_wFdis : fieldAndLog (exec (.wFdis 0 0x4) (state 32 { ready with filtEn := 0x4 })) .filtEn .fdis
    = some (0x0, 0x4) := by decide

/-- Row W11. -/
theorem test_W11_wPen : fieldAndLog (exec (.wPen 0 0x2) (state 32 { ready with pioEn := 0x1 })) .pioEn .pen
    = some (0x3, 0x2) := by decide

/-- Row W12. -/
theorem test_W12_wDen : fieldAndLog (exec (.wDen 0 0xFFFFFFFF) (state 32 { ready with outEn := 0x0 })) .outEn .den
    = some (0xFFFFFFFF, 0xFFFFFFFF) := by decide

/-- Row W13. -/
theorem test_W13_wMden : fieldAndLog (exec (.wMden 0 0x1) (state 32 { ready with mdEn := 0x0 })) .mdEn .mden
    = some (0x1, 0x1) := by decide

/-- Row W14. -/
theorem test_W14_wMddis : fieldAndLog (exec (.wMddis 0 0x1) (state 32 { ready with mdEn := 0x3 })) .mdEn .mddis
    = some (0x2, 0x1) := by decide

/-- Row W8: clearing leaves the log of the set port as it was. -/
theorem test_W8_other_log : fieldAndLog (exec (.wPudis 0 2) (state 32 { ready with puEn := 6, last := { ready.last with puen := 6 } }))
    .puEn .puen = some (4, 6) := by decide

/-- Rows W15, W16: with 8 pins, bit 8 faults and leaves the controller and the trace; bits 0 to 7 exist. -/
theorem test_W15_W16_pins_that_exist :
    faultOf (exec (.wOset 0 0x100) (state 8 ready)) = some .maskOutOfRange ∧
    (∃ t, exec (.wOset 0 0x100) (state 8 ready) = .next t ∧ t.ctrl = (state 8 ready).ctrl ∧ t.trace = []) ∧
    fieldAndLog (exec (.wOset 0 0xFF) (state 8 ready)) .outData .oset = some (0xFF, 0xFF) :=
  ⟨by decide, ⟨_, rfl, rfl, rfl⟩, by decide⟩

/-- Rows W17, W18: without the clock a write faults, before its data is looked at. -/
theorem test_W17_W18_no_clock :
    faultOf (exec (.wPen 1 1) (state 8 ready)) = some .clockNotEnabled ∧
    faultOf (exec (.wOset 1 0x100) (state 8 ready)) = some .clockNotEnabled := by decide

/-- A write moves `A.pc` on by one operation and leaves one entry in the trace. -/
theorem test_write_trace : ∃ t, exec (.wOset 0 3) (state 8 ready) = .next t ∧ t.trace = [.write 0 0 .oset 3] ∧
    t.agent = [{ Agent.reset with pc := { k := 1, j := 0 } }, Agent.reset] := ⟨_, rfl, rfl, rfl⟩

/-- Rows RD1 to RD3 and their like: under `WO_READ = ZERO` every read of a write-only port gives 0, whatever the port's field and
log hold. -/
theorem test_RD_write_only_ports :
    [Instr.rOset 0, .rOclr 0, .rPuen 0, .rPudis 0, .rFen 0, .rFdis 0, .rPen 0, .rDen 0, .rMden 0, .rMddis 0].map
        (fun i => retOf (exec i (state 32 (((ready.written .oset 1).written .pen 1).written .puen 4))))
      = List.replicate 10 (some 0) := by decide

/-- Row RD1: the read leaves its entry in the trace and every controller as it was. -/
theorem test_RD1_trace : ∃ t, exec (.rOset 0) (state 32 (ready.written .oset 1)) = .next t ∧
    t.trace = [.read 0 0 (.wo .oset) 0] ∧ t.ctrl = (state 32 (ready.written .oset 1)).ctrl := ⟨_, rfl, rfl, rfl⟩

/-- Rows RD4, RD5: a drawn word is returned and entered in the trace, and the next draw is another one. -/
theorem test_RD4_RD5_draws :
    (∃ t d, exec (.rDen 0) { state 8 ready with par := { par 8 with woRead := .draw } } = .next t ∧
      t.trace = [.read 0 0 (.wo .den) d] ∧ t.agent.map Agent.ret = [some d, none] ∧ t.draws = 1) ∧
    ∃ t d, exec (.rLevel 0) (state 8 ready) = .next t ∧ t.trace = [.read 0 0 .level d] ∧
      t.agent.map Agent.ret = [some d, none] ∧ t.draws = 1 := ⟨⟨_, _, rfl, rfl, rfl, rfl⟩, ⟨_, _, rfl, rfl, rfl, rfl⟩⟩

/-- Row RD7: without the clock the level read faults. -/
theorem test_RD7_no_clock : faultOf (exec (.rLevel 1) (state 8 ready)) = some .clockNotEnabled := by decide

/-- Rows PL1, PL2. -/
theorem test_PL1_PL2_levels :
    fieldAndLog (exec (.setHigh 0 5) (state 32 { ready with outData := 2 })) .outData .oset = some (7, 5) ∧
    fieldAndLog (exec (.setLow 0 5) (state 32 { ready with outData := 7 })) .outData .oclr = some (2, 5) := by decide

/-- Row PL4: the level of an input is latched, and the pad is not the controller's. -/
theorem test_PL4_latched :
    (after (exec (.setHigh 0 8) (state 32 ready))).map (fun ctl => (ctl.outData, padDrive ctl 3)) = some (8, .unowned) := by
  decide

/-- Rows PL6, PL7, GL5 and their like: with 4 pins bit 4 faults, and a third controller is refused. -/
theorem test_PL6_PL7_checks :
    [Instr.setHigh 0 0x10, .setLow 0 0x10, .cfgPullup 0 0x10 true, .cfgInput 0 0x10 0, .cfgOutput 0 1 0x10 false false,
        .getLevel 0 0x10].map (fun i => faultOf (exec i (state 4 ready))) = List.replicate 6 (some .maskOutOfRange) ∧
    [Instr.setHigh 2 1, .setLow 2 1, .clockEnable 2, .rLevel 2, .wOset 2 1].map (fun i => refusalOf (exec i (state 4 ready)))
      = List.replicate 5 (some .noSuchController) := by decide

/-- Rows PU1, PU2. -/
theorem test_PU1_PU2_pull_up :
    fieldAndLog (exec (.cfgPullup 0 4 true) (state 32 ready)) .puEn .puen = some (4, 4) ∧
    fieldAndLog (exec (.cfgPullup 0 4 false) (state 32 { ready with puEn := 6 })) .puEn .pudis = some (2, 4) := by decide

/-- L2-5: the pull-up and filter fields after `CFG_INPUT` of pin 4, for the ten attribute words. -/
theorem test_IN_attributes :
    [0x00, 0x01, 0x02, 0x03, 0x08, 0x09, 0x0A, 0x0B, 0x04, 0xFFFFFFF4].map (fun a =>
        (after (execWhole (.cfgInput 0 0x10 a) (state 32 ready))).map (fun ctl => (ctl.puEn, ctl.filtEn)))
      = [some (0, 0), some (0x10, 0), some (0, 0x10), some (0x10, 0x10), some (0, 0x10), some (0x10, 0x10), some (0, 0x10),
          some (0x10, 0x10), some (0, 0), some (0, 0)] := by decide

/-- Row IN1: an output configured as an input stays an output of the controller. -/
theorem test_IN1_stays_output :
    (after (execWhole (.cfgInput 0 0x10 9) (state 32 { ready with outEn := 0x10, pioEn := 0x10 }))).map
      (fun ctl => (ctl.outEn, ctl.pioEn)) = some (0x10, 0x10) := by decide

/-- Row O5: the level outside the mask is latched; the logs of the ports written. -/
theorem test_O5_output :
    (after (execWhole (.cfgOutput 0 1 3 false false) (state 32 ready))).map
        (fun ctl => [ctl.pioEn, ctl.outEn, ctl.outData, ctl.mdEn, ctl.puEn, ctl.last.pen, ctl.last.den, ctl.last.oset,
          ctl.last.mddis, ctl.last.pudis, ctl.last.mden, ctl.last.puen])
      = some [1, 1, 3, 0, 0, 1, 1, 3, 1, 1, 0, 0] := by decide

/-- Rows O10, O12: without the clock micro-step 0 faults; a drawn bit of a pin that does not exist faults in micro-step 1. -/
theorem test_O10_O12_faults :
    faultOf (exec (.cfgOutput 1 1 1 false false) (state 8 ready)) = some .clockNotEnabled ∧
    faultOf (exec (.cfgOutput 0 1 0 false false) (stateAt 4 ready 1 (some 0x80))) = some .maskOutOfRange := by decide

/-- Rows CK1, CK2: the clock of one controller, and again. -/
theorem test_CK1_CK2_clock :
    (∃ t, exec (.clockEnable 0) (state 8 { ready with clkEn := false }) = .next t ∧
      t.ctrl.map Ctrl.clkEn = [true, false] ∧ t.trace = [.clockEnable 0 0]) ∧
    ∃ t, exec (.clockEnable 0) (state 8 ready) = .next t ∧ t.ctrl = (state 8 ready).ctrl ∧ t.trace = [.clockEnable 0 0] :=
  ⟨⟨_, rfl, rfl, rfl⟩, ⟨_, rfl, rfl, rfl⟩⟩

/-- Rows GL1, GL3, GL4: the drawn level and-ed with the mask, the empty mask, and no clock. -/
theorem test_GL_level :
    (∃ t d, exec (.getLevel 0 5) (state 8 ready) = .next t ∧ t.trace = [.read 0 0 .level d] ∧
      t.agent.map Agent.ret = [some (d &&& 5), none]) ∧
    retOf (exec (.getLevel 0 0) (state 8 ready)) = some 0 ∧
    faultOf (exec (.getLevel 1 1) (state 8 ready)) = some .clockNotEnabled :=
  ⟨⟨_, _, rfl, rfl, rfl⟩, congrArg some (Nat.and_zero _), by decide⟩

/-- L2-9: the accesses by address. -/
theorem test_bus_addresses :
    (after (memWriteStep 0x1030 4 1 (state 8 ready))).map Ctrl.outData = some 1 ∧
    refusalOf (memWriteStep 0x1030 1 1 (state 8 ready)) = some .badWidth ∧
    refusalOf (memReadStep 0x1032 4 (state 8 ready)) = some .misaligned ∧
    refusalOf (memReadStep 0x1100 4 (state 8 ready)) = some .unmappedOffset ∧
    refusalOf (memWriteStep 0x103C 4 0 (state 8 ready)) = some .readOnlyPort ∧
    refusalOf (memReadStep 0x3000 4 (state 8 ready)) = some .notThisBlock ∧
    refusalOf (memFetchStep 0x11FC (state 8 ready)) = some .notExecutable ∧
    refusalOf (memFetchStep 0x1200 (state 8 ready)) = some .notThisBlock := by decide

/-- L2-10: the drive of pin 0 for the eight combinations in which the controller has the pin. -/
theorem test_pad_drive :
    [(0, 0, 0), (0, 0, 1), (0, 1, 0), (0, 1, 1), (1, 0, 0), (1, 0, 1), (1, 1, 0), (1, 1, 1)].map (fun x =>
        padDrive { ready with pioEn := 1, outEn := x.1, mdEn := x.2.1, outData := x.2.2 } 0)
      = [.released, .released, .released, .released, .low, .high, .low, .released] := by decide

/-- R41, R231: after reset, with nothing placed, `step` answers that the run has ended; with `W_OSET` placed it runs it, and
finds the clock not enabled. -/
theorem test_first_step :
    step State.reset = .refused .runEnded ∧
    faultOf (step (State.reset.withFetchWord 16 0x4030)) = some .clockNotEnabled ∧
    (∃ t, step (State.reset.withFetchWord 16 0x8010) = .next t ∧ t.trace = [.clockEnable 0 0]) :=
  ⟨rfl, rfl, ⟨_, rfl, rfl⟩⟩

/-! ### Witnesses: for each obligation with hypotheses, states and operands that meet them, clause by clause -/

/-- Controller 0 of `state`, clocked. -/
theorem ready_clocked (n : Nat) : (state n ready).clocked 0 ready := ⟨rfl, rfl⟩

/-- The issuing agent of `state` stands at micro-step 0. -/
theorem state_stands (n : Nat) (ctl : Ctrl) : (state n ctl).standsAt Agent.reset 0 := ⟨⟨rfl, rfl⟩, rfl, rfl⟩

/-- The highest existing pin and the lowest one that does not exist, of 8; every pin of 32. -/
theorem pins_boundary : pinsExist (par 8) 0x80 ∧ ¬ pinsExist (par 8) 0x100 ∧ pinsExist (par 32) 0xFFFFFFFF := by
  unfold pinsExist; decide

/-- The hypotheses of a bus write that completes, faults for its clock, and faults for its data. -/
theorem write_hypotheses :
    ((state 8 ready).standsAt Agent.reset 0 ∧ (state 8 ready).clocked 0 ready ∧ pinsExist (state 8 ready).par 0x80) ∧
    ((state 8 ready).standsAt Agent.reset 0 ∧ (state 8 ready).ctrl[1]? = some (Ctrl.reset (par 8)) ∧
      (Ctrl.reset (par 8)).clkEn = false) ∧
    ((state 8 ready).standsAt Agent.reset 0 ∧ (state 8 ready).ctrl[0]? = some ready ∧ ready.clkEn = true ∧
      ¬ pinsExist (state 8 ready).par 0x100) :=
  ⟨⟨state_stands _ _, ready_clocked _, pins_boundary.1⟩, ⟨state_stands _ _, rfl, rfl⟩,
    ⟨state_stands _ _, rfl, rfl, pins_boundary.2.1⟩⟩

theorem witness_DecodeOfEncodeIsTheInstruction : Config.regOffset.wf = true := by decide

theorem witness_DecodedSelectorIsTheOperationsOwn : decodeSel Config.regOffset 0x8010 = .ok .clockEnable := by decide

/-- No operation has the selector `0x8006`. -/
theorem unlisted_0x8006 : ∀ oc, selectorOf Config.regOffset oc ≠ 0x8006#16 := by
  intro oc
  cases oc with
  | br P =>
    cases P with
    | wo P => cases P <;> decide
    | level => decide
  | bw P => cases P <;> decide
  | _ => decide

/-- The clauses in order; `0x4FFC` and `0x3030` are at the ends of the offset and of the reserved field. -/
theorem witness_UnlistedSelectorsAreRefused :
    (∀ oc, selectorOf Config.regOffset oc ≠ 0x8006#16) ∧
    (0xC000#16).extractLsb' 14 2 = 0b11#2 ∧
    ((0x3030#16).extractLsb' 15 1 = 0#1 ∧ (0x3030#16).extractLsb' 12 2 ≠ 0b00#2) ∧
    ((0x4FFD#16).extractLsb' 15 1 = 0#1 ∧ (0x4FFD#16).extractLsb' 12 2 = 0b00#2 ∧ (0x4FFD#16).extractLsb' 0 2 ≠ 0b00#2) ∧
    ((0x4FFC#16).extractLsb' 15 1 = 0#1 ∧ (0x4FFC#16).extractLsb' 12 2 = 0b00#2 ∧ (0x4FFC#16).extractLsb' 0 2 = 0b00#2 ∧
      allPorts.all (fun P => portOffset Config.regOffset P != (0x4FFC#16).extractLsb' 0 12) = true) ∧
    ((0x8100#16).extractLsb' 14 2 = 0b10#2 ∧ (0x8100#16).extractLsb' 8 6 ≠ 0#6) ∧
    ((0x8006#16).extractLsb' 14 2 = 0b10#2 ∧
      (0x8006#16).extractLsb' 0 8 ∉ [0x00#8, 0x01#8, 0x02#8, 0x03#8, 0x04#8, 0x05#8, 0x10#8]) ∧
    ∃ ag, (running [{ osetOp with sel := 0x8006 }]).running ∧
      (running [{ osetOp with sel := 0x8006 }]).agent[0]? = some ag ∧
      ag.prog[ag.pc.k]? = some { sel := 0x8006, operands := osetOp.operands } :=
  ⟨unlisted_0x8006, by decide, by decide, by decide, by decide, by decide, by decide, ⟨_, ⟨rfl, rfl⟩, rfl, rfl⟩⟩

theorem witness_LevelPortWriteIsRefused : Config.regOffset.wf = true := by decide

theorem witness_StepRunsTheDecodedOperation : ∃ ag, (running [osetOp]).running ∧ chooseAgent (running [osetOp]) = some 0 ∧
    (running [osetOp]).agent[0]? = some ag ∧ ag.prog[ag.pc.k]? = some osetOp ∧
    decode (running [osetOp]).par.regOffset osetOp = .ok (.wOset 0 1) := ⟨_, ⟨rfl, rfl⟩, rfl, rfl, rfl, by decide⟩

theorem witness_StepRecordsADecodeRefusal : ∃ (s : State) (ag : Agent) (op : Op), s.running ∧ chooseAgent s = some 0 ∧ s.agent[0]? = some ag ∧
    ag.prog[ag.pc.k]? = some op ∧ decode s.par.regOffset op = .error .readOnlyPort :=
  ⟨running [{ osetOp with sel := 0x403C }], _, _, ⟨rfl, rfl⟩, rfl, rfl, rfl, by decide⟩

theorem witness_MarkedMachineHasNoStep : ¬ ((state 8 ready).refusedFor .misaligned).running := fun h => nomatch h.2

/-- A choice, no choice, and an agent that has not finished. -/
theorem witness_AnyUnfinishedAgentMayMove : chooseAgent (running [osetOp]) = some 0 ∧ chooseAgent (running []) = none ∧
    ∃ ag, (running [osetOp]).agent[0]? = some ag ∧ ag.pc.k < ag.prog.length := ⟨rfl, rfl, _, rfl, by decide⟩

theorem witness_UnfinishedAgentHasAStep : ∃ ag, (running [osetOp]).inv = true ∧ (running [osetOp]).running ∧
    (running [osetOp]).agent[0]? = some ag ∧ ag.pc.k < ag.prog.length := ⟨_, by decide, ⟨rfl, rfl⟩, rfl, by decide⟩

theorem witness_EveryStepUsesUpOneStep : ∃ t, (running [osetOp]).inv = true ∧ stepOf 0 (running [osetOp]) = .next t ∧
    t.running := ⟨_, by decide, rfl, rfl, rfl⟩

theorem witness_EveryRunEnds : (running [osetOp]).inv = true ∧ (running [osetOp]).running := ⟨by decide, rfl, rfl⟩

theorem witness_OutputSetAndClearWrites : Config.regOffset.wf = true ∧ (state 8 ready).standsAt Agent.reset 0 ∧
    (state 8 ready).clocked 0 ready ∧ pinsExist (state 8 ready).par 0x80 := ⟨by decide, write_hypotheses.1⟩

theorem witness_PullUpEnableAndDisableWrites : Config.regOffset.wf = true ∧ (state 8 ready).standsAt Agent.reset 0 ∧
    (state 8 ready).clocked 0 ready ∧ pinsExist (state 8 ready).par 0x80 := ⟨by decide, write_hypotheses.1⟩

theorem witness_FilterEnableAndDisableWrites : Config.regOffset.wf = true ∧ (state 8 ready).standsAt Agent.reset 0 ∧
    (state 8 ready).clocked 0 ready ∧ pinsExist (state 8 ready).par 0x80 := ⟨by decide, write_hypotheses.1⟩

theorem witness_PinAndDirectionEnableWrites : Config.regOffset.wf = true ∧ (state 8 ready).standsAt Agent.reset 0 ∧
    (state 8 ready).clocked 0 ready ∧ pinsExist (state 8 ready).par 0x80 := ⟨by decide, write_hypotheses.1⟩

theorem witness_MultidriveEnableAndDisableWrites : Config.regOffset.wf = true ∧ (state 8 ready).standsAt Agent.reset 0 ∧
    (state 8 ready).clocked 0 ready ∧ pinsExist (state 8 ready).par 0x80 := ⟨by decide, write_hypotheses.1⟩

theorem witness_BusWriteFrame : ∃ t ctl' ag', exec (writeInstr .oset 0 0x80) (state 8 ready) = .next t ∧
    (state 8 ready).ctrl[0]? = some ready ∧ t.ctrl[0]? = some ctl' ∧ (state 8 ready).agent[0]? = some Agent.reset ∧
    t.agent[0]? = some ag' := ⟨_, _, _, rfl, rfl, rfl, rfl, rfl⟩

/-- `ZERO`, `DRAW`, and no clock. -/
theorem witness_WriteOnlyPortReads :
    ((state 8 ready).standsAt Agent.reset 0 ∧ (state 8 ready).clocked 0 ready ∧ (state 8 ready).par.woRead = .zero) ∧
    (∃ s : State, s.standsAt Agent.reset 0 ∧ s.clocked 0 ready ∧ s.par.woRead = .draw) ∧
    ((state 8 ready).standsAt Agent.reset 0 ∧ (state 8 ready).ctrl[1]? = some (Ctrl.reset (par 8)) ∧
      (Ctrl.reset (par 8)).clkEn = false) :=
  ⟨⟨state_stands _ _, ready_clocked _, rfl⟩,
    ⟨{ state 8 ready with par := { par 8 with woRead := .draw } }, ⟨⟨rfl, rfl⟩, rfl, rfl⟩, ⟨rfl, rfl⟩, rfl⟩,
    write_hypotheses.2.1⟩

theorem witness_LevelReadIsADraw : (state 8 ready).standsAt Agent.reset 0 ∧ (state 8 ready).clocked 0 ready :=
  ⟨state_stands _ _, ready_clocked _⟩

/-- The four kinds of read: an instruction, `GET_LEVEL`, micro-step 0 of `CFG_OUTPUT`, and an access by address. -/
theorem witness_ReadsChangeNoController :
    (∃ t, exec (readInstr .level 0) (state 8 ready) = .next t) ∧ (∃ t, exec (.getLevel 0 1) (state 8 ready) = .next t) ∧
    (∃ t, exec (.cfgOutput 0 1 1 true true) (stateAt 8 ready 5 none) = .next t ∧
      (stateAt 8 ready 5 none).agent[0]? = some { Agent.reset with pc := { k := 0, j := 5 } }) ∧
    ∃ t, memReadStep 0x103C 4 (state 8 ready) = .next t := ⟨⟨_, rfl⟩, ⟨_, rfl⟩, ⟨_, rfl, rfl⟩, ⟨_, rfl⟩⟩

theorem witness_AccessWithoutClockFaults : (state 8 ready).standsAt Agent.reset 0 ∧
    (state 8 ready).ctrl[1]? = some (Ctrl.reset (par 8)) ∧ (Ctrl.reset (par 8)).clkEn = false ∧
    busAddress (state 8 ready).par 0x2064 4 = .ok (1, .wo .puen) := ⟨state_stands _ _, rfl, rfl, by decide⟩

theorem witness_MissingControllerIsRefused : (state 8 ready).inv = true ∧ (state 8 ready).standsAt Agent.reset 0 ∧
    (state 8 ready).par.nCtrl ≤ (Instr.wOset 2 1).ctrlIndex := ⟨by decide, state_stands _ _, by decide⟩

/-- Each check of `CFG_OUTPUT` failing: no controller, no clock, the mask, and the level after a mask that passes. -/
theorem witness_EntryChecksInOrder : (state 8 ready).standsAt Agent.reset 0 ∧ (state 8 ready).ctrl[2]? = none ∧
    (state 8 ready).ctrl[1]? = some (Ctrl.reset (par 8)) ∧ (Ctrl.reset (par 8)).clkEn = false ∧
    (state 8 ready).clocked 0 ready ∧
    ((Instr.cfgOutput 0 0x100 0 true true).pinWords = [] ++ (0x100 : Word) :: [0] ∧
      ¬ pinsExist (state 8 ready).par 0x100) ∧
    ((Instr.cfgOutput 0 0x80 0x100 true true).pinWords = [0x80] ++ (0x100 : Word) :: [] ∧
      ∀ w ∈ [(0x80 : Word)], pinsExist (state 8 ready).par w) :=
  ⟨state_stands _ _, rfl, rfl, rfl, ready_clocked _, ⟨rfl, pins_boundary.2.1⟩, rfl,
    fun w hw => by rw [List.mem_singleton.mp hw]; exact pins_boundary.1⟩

theorem witness_SetHighAndSetLow : (state 8 ready).standsAt Agent.reset 0 ∧ (state 8 ready).clocked 0 ready ∧
    pinsExist (state 8 ready).par 0x80 := write_hypotheses.1

/-- A `Bool` operand in each form, with each meaning. -/
theorem bool_means : (BoolArg.bool true).means true ∧ (BoolArg.bool false).means false ∧ (BoolArg.word 0x80000000).means true ∧
    (BoolArg.word 0).means false := by simp [BoolArg.means]

theorem witness_ConfigurePullUp : (state 8 ready).standsAt Agent.reset 0 ∧ (state 8 ready).clocked 0 ready ∧
    pinsExist (state 8 ready).par 0x80 ∧ (BoolArg.word 2).means true ∧ (BoolArg.word 0).means false :=
  ⟨state_stands _ _, ready_clocked _, pins_boundary.1, by simp [BoolArg.means], bool_means.2.2.2⟩

/-- The two micro-steps, with attribute words that meet each of the four conditions. -/
theorem witness_ConfigureAsInput :
    ((state 8 ready).standsAt Agent.reset 0 ∧ (state 8 ready).clocked 0 ready ∧ pinsExist (state 8 ready).par 0x80) ∧
    (∃ ag, (stateAt 8 ready 1 none).standsAt ag 1 ∧ (stateAt 8 ready 1 none).clocked 0 ready ∧
      pinsExist (stateAt 8 ready 1 none).par 0x80) ∧
    (0xFFFFFFFF : Word) &&& (par 8).attrPullup ≠ 0 ∧ (0xFFFFFFFE : Word) &&& (par 8).attrPullup = 0 ∧
    (0x8 : Word) &&& ((par 8).attrDeglitch ||| (par 8).attrDebounce) ≠ 0 ∧
    (0xFFFFFFF5 : Word) &&& ((par 8).attrDeglitch ||| (par 8).attrDebounce) = 0 :=
  ⟨write_hypotheses.1, ⟨_, ⟨⟨rfl, rfl⟩, rfl, rfl⟩, ⟨rfl, rfl⟩, pins_boundary.1⟩, by decide, by decide, by decide, by decide⟩

theorem witness_ConfigureAsOutput : (state 32 ready).standsAt Agent.reset 0 ∧ (state 32 ready).clocked 0 ready ∧
    pinsExist (state 32 ready).par 0x80000001 ∧ pinsExist (state 32 ready).par 0xFFFFFFFF ∧
    (state 32 ready).par.woRead = .zero ∧ (BoolArg.word 0x80000000).means true ∧ (BoolArg.word 0).means false := by
  refine ⟨state_stands _ _, ready_clocked _, ?_, pins_boundary.2.2, rfl, bool_means.2.2⟩
  unfold pinsExist; decide

/-- A read under `ZERO` and under `DRAW`, an "OR into" write that completes and one that faults, and micro-steps 4 and 7. -/
theorem witness_ConfigureAsOutputMicroSteps :
    (∃ ag, (stateAt 8 ready 5 none).standsAt ag 5 ∧ (stateAt 8 ready 5 none).clocked 0 ready ∧
      (stateAt 8 ready 5 none).par.woRead = .zero) ∧
    (∃ (s : State) (ag : Agent), s.standsAt ag 0 ∧ s.clocked 0 ready ∧ pinsExist s.par 0x80 ∧ s.par.woRead = .draw) ∧
    (∃ ag, (stateAt 8 ready 6 (some 0x40)).standsAt ag 6 ∧ (stateAt 8 ready 6 (some 0x40)).clocked 0 ready ∧
      ag.tmp = some 0x40 ∧ pinsExist (stateAt 8 ready 6 (some 0x40)).par (0x40 ||| 0x80)) ∧
    (∃ ag, (stateAt 8 ready 1 (some 0x100)).standsAt ag 1 ∧ (stateAt 8 ready 1 (some 0x100)).clocked 0 ready ∧
      ag.tmp = some 0x100 ∧ ¬ pinsExist (stateAt 8 ready 1 (some 0x100)).par (0x100 ||| 0x80)) ∧
    (∃ ag, (stateAt 8 ready 4 none).standsAt ag 4 ∧ (stateAt 8 ready 4 none).clocked 0 ready) ∧
    ∃ ag, (stateAt 8 ready 7 none).standsAt ag 7 ∧ (stateAt 8 ready 7 none).clocked 0 ready := by
  refine ⟨⟨_, ⟨⟨rfl, rfl⟩, rfl, rfl⟩, ⟨rfl, rfl⟩, rfl⟩,
    ⟨{ state 8 ready with par := { par 8 with woRead := .draw } }, _, ⟨⟨rfl, rfl⟩, rfl, rfl⟩, ⟨rfl, rfl⟩, pins_boundary.1, rfl⟩,
    ⟨_, ⟨⟨rfl, rfl⟩, rfl, rfl⟩, ⟨rfl, rfl⟩, rfl, ?_⟩, ⟨_, ⟨⟨rfl, rfl⟩, rfl, rfl⟩, ⟨rfl, rfl⟩, rfl, ?_⟩,
    ⟨_, ⟨⟨rfl, rfl⟩, rfl, rfl⟩, ⟨rfl, rfl⟩⟩, ⟨_, ⟨⟨rfl, rfl⟩, rfl, rfl⟩, ⟨rfl, rfl⟩⟩⟩
  · unfold pinsExist; decide
  · unfold pinsExist; decide

/-- A clock that is off, one that is on, and a controller that does not exist. -/
theorem witness_ClockEnableTurnsTheClockOn : (state 8 ready).standsAt Agent.reset 0 ∧
    (state 8 ready).ctrl[1]? = some (Ctrl.reset (par 8)) ∧ (state 8 ready).clocked 0 ready ∧
    (state 8 ready).ctrl[2]? = none := ⟨state_stands _ _, rfl, ready_clocked _, rfl⟩

theorem witness_GetLevelIsMasked : (state 8 ready).standsAt Agent.reset 0 ∧ (state 8 ready).clocked 0 ready ∧
    pinsExist (state 8 ready).par 0x80 := write_hypotheses.1

theorem witness_OneControllerOnly : (∃ t, exec (.wOset 0 1) (state 8 ready) = .next t) ∧
    [ready][(Instr.wOset 0 1).ctrlIndex]? = (state 8 ready).ctrl[(Instr.wOset 0 1).ctrlIndex]? := ⟨⟨_, rfl⟩, rfl⟩

theorem witness_StatusFieldsChangeOnlyByTheirPorts : ∃ t ctl', stepOf 0 (running [osetOp]) = .next t ∧
    (running [osetOp]).ctrl[0]? = some ready ∧ t.ctrl[0]? = some ctl' ∧ ctl'.field .outData ≠ ready.field .outData :=
  ⟨_, _, rfl, rfl, rfl, by decide⟩

theorem witness_OutputsStayOutputs : ∃ t ctl', stepOf 0 (running [{ osetOp with sel := 0x4010 }]) = .next t ∧
    (running [{ osetOp with sel := 0x4010 }]).ctrl[0]? = some ready ∧ t.ctrl[0]? = some ctl' ∧ ctl'.outEn ≠ ready.outEn :=
  ⟨_, _, rfl, rfl, rfl, by decide⟩

theorem witness_ClockStaysOn : ∃ (s t : State) (ctl ctl' : Ctrl), stepOf 0 s = .next t ∧ s.ctrl[1]? = some ctl ∧ t.ctrl[1]? = some ctl' ∧
    ctl.clkEn = false ∧ ctl'.clkEn = true :=
  ⟨running [{ sel := 0x8010, operands := { zeroOperands with c := 1 } }], _, _, _, rfl, rfl, rfl, rfl, rfl⟩

theorem witness_ParametersAreFixed : (∃ t, stepOf 0 (running [osetOp]) = .next t) ∧ (∃ t, step (running [osetOp]) = .next t) ∧
    (∃ t, exec (.wOset 0 1) (state 8 ready) = .next t) ∧ (∃ t, memWriteStep 0x1030 4 1 (state 8 ready) = .next t) ∧
    (∃ t, memReadStep 0x1030 4 (state 8 ready) = .next t) ∧ ∃ t, memFetchStep 0x1030 (state 8 ready) = .next t :=
  ⟨⟨_, rfl⟩, ⟨_, rfl⟩, ⟨_, rfl⟩, ⟨_, rfl⟩, ⟨_, rfl⟩, ⟨_, rfl⟩⟩

/-- A step without a mark, and one that sets a mark. -/
theorem witness_TraceOnlyGrows : (∃ t, stepOf 0 (running [osetOp]) = .next t ∧ t.running) ∧
    ∃ t, stepOf 0 (running [{ osetOp with sel := 0xFFFF }]) = .next t ∧ ¬ t.running :=
  ⟨⟨_, rfl, rfl, rfl⟩, ⟨_, rfl, fun h => nomatch h.2⟩⟩

/-- A step without a mark, and one that sets a mark. -/
theorem witness_PositionMovesToItsSuccessor :
    (∃ ag t, (running [osetOp]).agent[0]? = some ag ∧ fetch (issueTo 0 (running [osetOp])) = .ok (.wOset 0 1) ∧
      stepOf 0 (running [osetOp]) = .next t ∧ t.running) ∧
    ∃ op ag t, (running [op]).agent[0]? = some ag ∧ fetch (issueTo 0 (running [op])) = .ok (.wOset 0 0x100) ∧
      stepOf 0 (running [op]) = .next t ∧ ¬ t.running :=
  ⟨⟨_, _, rfl, rfl, rfl, rfl, rfl⟩,
    ⟨{ osetOp with operands := { zeroOperands with data := 0x100 } }, _, _, rfl, rfl, rfl, fun h => nomatch h.1⟩⟩

/-- A write, an agent without a result and one with a result, and an agent at reset. -/
theorem witness_ResultIsWrittenByReadsOnly : (∃ t, exec (.wOset 0 1) (state 8 ready) = .next t) ∧
    (∀ P c, Instr.wOset 0 1 ≠ readInstr P c) ∧ (∀ c mask, Instr.wOset 0 1 ≠ .getLevel c mask) ∧
    (state 8 ready).agent[0]? = some Agent.reset ∧ Agent.reset.ret = none ∧
    (∃ (s : State) (ag : Agent), s.agent[0]? = some ag ∧ ag.ret = some 5) ∧ Agent.reset ∈ (State.resetWith (par 8)).agent := by
  refine ⟨⟨_, rfl⟩, fun P c => ?_, (fun c mask h => nomatch h), rfl, rfl,
    ⟨{ state 8 ready with agent := [{ Agent.reset with ret := some 5 }] }, _, rfl, rfl⟩, by decide⟩
  cases P with
  | wo P => cases P <;> exact fun h => nomatch h
  | level => exact fun h => nomatch h

/-- Another instruction; an "OR into" write; and micro-step 7. -/
theorem witness_TmpBelongsToConfigureAsOutput : (∃ t, exec (.setHigh 0 1) (state 8 ready) = .next t) ∧
    (∃ t ag ag', exec (.cfgOutput 0 1 1 true true) (stateAt 8 ready 6 (some 0)) = .next t ∧ t.running ∧
      (stateAt 8 ready 6 (some 0)).agent[0]? = some ag ∧ t.agent[0]? = some ag' ∧ ag.pc.j = 6) ∧
    ∃ t ag ag', exec (.cfgOutput 0 1 1 true true) (stateAt 8 ready 7 none) = .next t ∧ t.running ∧
      (stateAt 8 ready 7 none).agent[0]? = some ag ∧ t.agent[0]? = some ag' ∧ ag.pc.j = 7 :=
  ⟨⟨_, rfl⟩, ⟨_, _, _, rfl, ⟨rfl, rfl⟩, rfl, rfl, rfl⟩, ⟨_, _, _, rfl, ⟨rfl, rfl⟩, rfl, rfl, rfl⟩⟩

/-- An instruction that faults, and a step that refuses. -/
theorem witness_FaultChangesOnlyTheMark : (∃ t, exec (.wOset 0 0x100) (state 8 ready) = .next t ∧ ¬ t.running) ∧
    ∃ t, stepOf 0 (running [{ osetOp with sel := 0xFFFF }]) = .next t ∧ step (running [{ osetOp with sel := 0xFFFF }]) = .next t ∧
      ¬ t.running := ⟨⟨_, rfl, fun h => nomatch h.1⟩, ⟨_, rfl, rfl, fun h => nomatch h.2⟩⟩

theorem witness_BitsBeyondPinsNeverChange : ∃ t ctl', stepOf 0 (running [osetOp]) = .next t ∧
    (running [osetOp]).ctrl[0]? = some ready ∧ t.ctrl[0]? = some ctl' ∧
    andNot (ready.last.get .oset) (pinsMask (running [osetOp]).par) = 0 := ⟨_, _, rfl, rfl, rfl, by decide⟩

theorem witness_WriteIsLocalAndIdempotent : ∃ t u ctl', exec (writeInstr .oset 0 0x80) (state 8 ready) = .next t ∧ t.running ∧
    (state 8 ready).ctrl[0]? = some ready ∧ t.ctrl[0]? = some ctl' ∧ (0x80 : Word).testBit 0 = false ∧
    exec (writeInstr .oset 0 0x80) t = .next u ∧ u.running := ⟨_, _, _, rfl, ⟨rfl, rfl⟩, rfl, rfl, by decide, rfl, rfl, rfl⟩

/-- Two writes of one agent that complete, one after the other. -/
def twoWrites (P Q : WritePort) (v u : Word) : Prop :=
  ∃ s₁ s₂ ctl₂, exec (writeInstr P 0 v) (state 8 ready) = .next s₁ ∧ s₁.running ∧ exec (writeInstr Q 0 u) s₁ = .next s₂ ∧
    s₂.running ∧ (state 8 ready).ctrl[0]? = some ready ∧ s₂.ctrl[0]? = some ctl₂

/-- The clear port last, with data that overlap and data that do not, and the set port last. -/
theorem witness_LastWriteWins : (portField .puen = portField .pudis ∧ portKind .puen ≠ portKind .pudis) ∧
    twoWrites .puen .pudis 6 3 ∧ (twoWrites .puen .pudis 0x80 1 ∧ (0x80 : Word) &&& 1 = 0) ∧ twoWrites .pudis .puen 3 6 :=
  ⟨by decide, ⟨_, _, _, rfl, ⟨rfl, rfl⟩, rfl, ⟨rfl, rfl⟩, rfl, rfl⟩,
    ⟨⟨_, _, _, rfl, ⟨rfl, rfl⟩, rfl, ⟨rfl, rfl⟩, rfl, rfl⟩, by decide⟩, ⟨_, _, _, rfl, ⟨rfl, rfl⟩, rfl, ⟨rfl, rfl⟩, rfl, rfl⟩⟩

/-- Different fields, a set and a clear port of one field, and one port; each in both orders. -/
theorem witness_WriteOrderMatters :
    (portField .oset ≠ portField .puen ∧ twoWrites .oset .puen 1 0x80 ∧ twoWrites .puen .oset 0x80 1) ∧
    (portField .puen = portField .pudis ∧ portKind .puen ≠ portKind .pudis ∧ twoWrites .puen .pudis 6 3 ∧
      twoWrites .pudis .puen 3 6) ∧
    (twoWrites .oset .oset 1 2 ∧ twoWrites .oset .oset 2 1) :=
  ⟨⟨by decide, ⟨_, _, _, rfl, ⟨rfl, rfl⟩, rfl, ⟨rfl, rfl⟩, rfl, rfl⟩, ⟨_, _, _, rfl, ⟨rfl, rfl⟩, rfl, ⟨rfl, rfl⟩, rfl, rfl⟩⟩,
    ⟨by decide, by decide, ⟨_, _, _, rfl, ⟨rfl, rfl⟩, rfl, ⟨rfl, rfl⟩, rfl, rfl⟩,
      ⟨_, _, _, rfl, ⟨rfl, rfl⟩, rfl, ⟨rfl, rfl⟩, rfl, rfl⟩⟩,
    ⟨_, _, _, rfl, ⟨rfl, rfl⟩, rfl, ⟨rfl, rfl⟩, rfl, rfl⟩, ⟨_, _, _, rfl, ⟨rfl, rfl⟩, rfl, ⟨rfl, rfl⟩, rfl, rfl⟩⟩

/-- A primitive, `CLOCK_ENABLE` and `GET_LEVEL`, each whole and twice. -/
theorem witness_PrimitivesAreIdempotent : (state 8 ready).par.woRead = .zero ∧ (state 8 ready).standsAt Agent.reset 0 ∧
    (∃ s₁ s₂, execWhole (.setHigh 0 1) (state 8 ready) = .next s₁ ∧ s₁.running ∧ execWhole (.setHigh 0 1) s₁ = .next s₂ ∧
      s₂.running) ∧
    (∃ s₁ s₂, execWhole (.clockEnable 1) (state 8 ready) = .next s₁ ∧ s₁.running ∧ execWhole (.clockEnable 1) s₁ = .next s₂ ∧
      s₂.running) ∧
    ∃ s₁ s₂, execWhole (.getLevel 0 1) (state 8 ready) = .next s₁ ∧ s₁.running ∧ execWhole (.getLevel 0 1) s₁ = .next s₂ ∧
      s₂.running :=
  ⟨rfl, state_stands _ _, ⟨_, _, rfl, ⟨rfl, rfl⟩, rfl, rfl, rfl⟩, ⟨_, _, rfl, ⟨rfl, rfl⟩, rfl, rfl, rfl⟩,
    ⟨_, _, rfl, ⟨rfl, rfl⟩, rfl, rfl, rfl⟩⟩

/-- A masked primitive and `CFG_OUTPUT`, each whole, and a pin outside mask and level. -/
theorem witness_PrimitivesAreLocal : (state 8 ready).par.woRead = .zero ∧ (state 8 ready).standsAt Agent.reset 0 ∧
    (∃ t ctl', execWhole (.cfgInput 0 1 9) (state 8 ready) = .next t ∧ t.running ∧ (state 8 ready).ctrl[0]? = some ready ∧
      t.ctrl[0]? = some ctl') ∧
    (∃ t ctl', execWhole (.cfgOutput 0 1 2 true true) (state 8 ready) = .next t ∧ t.running ∧
      (state 8 ready).ctrl[0]? = some ready ∧ t.ctrl[0]? = some ctl') ∧
    (1 : Word).testBit 7 = false ∧ (2 : Word).testBit 7 = false :=
  ⟨rfl, state_stands _ _, ⟨_, _, rfl, ⟨rfl, rfl⟩, rfl, rfl⟩, ⟨_, _, rfl, ⟨rfl, rfl⟩, rfl, rfl⟩, by decide, by decide⟩

/-- Every number of micro-steps of the clauses, for a pin whose level bit is 1 and for one whose level bit is 0. -/
theorem witness_ConfigureAsOutputTransients : (state 8 ready).standsAt Agent.reset 0 ∧ (state 8 ready).clocked 0 ready ∧
    pinsExist (state 8 ready).par 0xC0 ∧ pinsExist (state 8 ready).par 0x80 ∧ (state 8 ready).par.woRead = .zero ∧
    ((0xC0 : Word).testBit 7 = true ∧ (0x80 : Word).testBit 7 = true) ∧
    ((0xC0 : Word).testBit 6 = true ∧ (0x80 : Word).testBit 6 = false) ∧
    ∀ k ∈ List.range 9, (after (execSteps k (.cfgOutput 0 0xC0 0x80 true true) (state 8 ready))).isSome = true :=
  ⟨state_stands _ _, ready_clocked _, by unfold pinsExist; decide, pins_boundary.1, rfl, by decide, by decide, by decide⟩

/-- The five rows of R44. -/
theorem witness_PadDriveTable : ∃ a b c d e : Ctrl, a.pioEn.testBit 0 = false ∧
    (b.pioEn.testBit 0 = true ∧ b.outEn.testBit 0 = false) ∧
    (c.pioEn.testBit 0 = true ∧ c.outEn.testBit 0 = true ∧ c.outData.testBit 0 = false) ∧
    (d.pioEn.testBit 0 = true ∧ d.outEn.testBit 0 = true ∧ d.mdEn.testBit 0 = false ∧ d.outData.testBit 0 = true) ∧
    (e.pioEn.testBit 0 = true ∧ e.outEn.testBit 0 = true ∧ e.mdEn.testBit 0 = true ∧ e.outData.testBit 0 = true) :=
  ⟨ready, { ready with pioEn := 1 }, { ready with pioEn := 1, outEn := 1 }, { ready with pioEn := 1, outEn := 1, outData := 1 },
    { ready with pioEn := 1, outEn := 1, outData := 1, mdEn := 1 }, by decide, by decide, by decide, by decide, by decide⟩

/-- The highest existing pin, and the first that does not exist. -/
theorem witness_PadPullAndFilter : (state 8 ready).ctrl[0]? = some ready ∧ 7 < (state 8 ready).par.nPins ∧
    (state 8 ready).par.nPins ≤ 8 := ⟨rfl, by decide, by decide⟩

/-- The hypotheses of `LevelOfAnInputIsLatched` at pin 7, with multidrive bits `md`. -/
def latchedAndMadeOutput (md : Word) : Prop :=
  ∃ (s t u : State) (ctl ctl' ctl'' : Ctrl), exec (writeInstr .oset 0 0x80) s = .next t ∧ t.running ∧ s.ctrl[0]? = some ctl ∧
    t.ctrl[0]? = some ctl' ∧ ctl.outEn.testBit 7 = false ∧ exec (.wDen 0 0x80) t = .next u ∧ u.running ∧
    u.ctrl[0]? = some ctl'' ∧ (0x80 : Word).testBit 7 = true ∧ ctl.pioEn.testBit 7 = true ∧ ctl.mdEn = md

/-- A pin with multidrive off, and a pin with multidrive on. -/
theorem witness_LevelOfAnInputIsLatched : latchedAndMadeOutput 0 ∧ latchedAndMadeOutput 0x80 :=
  ⟨⟨state 8 { ready with pioEn := 0x80 }, _, _, _, _, _, rfl, ⟨rfl, rfl⟩, rfl, rfl, by decide, rfl, ⟨rfl, rfl⟩, rfl, by decide,
      by decide, rfl⟩,
    ⟨state 8 { ready with pioEn := 0x80, mdEn := 0x80 }, _, _, _, _, _, rfl, ⟨rfl, rfl⟩, rfl, rfl, by decide, rfl, ⟨rfl, rfl⟩,
      rfl, by decide, by decide, rfl⟩⟩

theorem witness_AddressedAccessIsThePortAccess : (state 8 ready).par.wf = true ∧
    (state 8 ready).par.ctrlBase[1]? = some 0x2000 ∧ 8 * 4 = (state 8 ready).par.width := by decide

/-- The addresses beside a block, its first and last bytes, and an offset for each clause. -/
theorem witness_OtherAccessesAreRefused : (state 8 ready).par.wf = true ∧ (state 8 ready).running ∧
    (∀ base ∈ (state 8 ready).par.ctrlBase, (0xFFF : Nat) < base ∨ base + (state 8 ready).par.blockSize ≤ 0xFFF) ∧
    (∀ base ∈ (state 8 ready).par.ctrlBase, (0x1200 : Nat) < base ∨ base + (state 8 ready).par.blockSize ≤ 0x1200) ∧
    (state 8 ready).par.ctrlBase[0]? = some 0x1000 ∧ 0x1FF < (state 8 ready).par.blockSize ∧ 0x1FF % 4 ≠ 0 ∧
    (∀ P ∈ allPorts, (portOffset (state 8 ready).par.regOffset P).toNat ≠ 0x1FC) ∧
    0x3C = (portOffset (state 8 ready).par.regOffset .level).toNat ∧ 8 * 4 = (state 8 ready).par.width :=
  ⟨by decide, ⟨rfl, rfl⟩, by decide, by decide, rfl, by decide, by decide, by decide, by decide, rfl⟩

/-- The first and the last byte of a block, and the addresses beside it. -/
theorem witness_InstructionFetchIsRefused : (state 8 ready).running ∧ (state 8 ready).par.ctrlBase[0]? = some 0x1000 ∧
    (0x1000 ≤ 0x1000 ∧ 0x1000 < 0x1000 + (state 8 ready).par.blockSize) ∧
    (0x1000 ≤ 0x11FF ∧ 0x11FF < 0x1000 + (state 8 ready).par.blockSize) ∧
    ∀ addr ∈ [0xFFF, 0x1200], ∀ base ∈ (state 8 ready).par.ctrlBase, addr < base ∨ base + (state 8 ready).par.blockSize ≤ addr :=
  ⟨⟨rfl, rfl⟩, rfl, by decide, by decide, by decide⟩

/-- A controller and an agent of a reset state, and a pin of the machine's own first controller. -/
theorem witness_ResetState : Ctrl.reset (par 8) ∈ (State.resetWith (par 8)).ctrl ∧
    Agent.reset ∈ (State.resetWith (par 8)).agent ∧ 0 < Config.params.nCtrl ∧ 31 < Config.params.nPins :=
  ⟨by decide, by decide, Nat.succ_pos _, (by decide : 31 < 32)⟩

theorem witness_ResetEventResetsEverything : Agent.reset ∈ (resetEvent (stateAt 8 ready 5 (some 1))).agent := by decide

theorem witness_InvariantHoldsAtReset : (par 8).wf = true := by decide

theorem witness_EveryStepKeepsTheInvariant : (running [osetOp]).inv = true ∧ (∃ t, stepOf 0 (running [osetOp]) = .next t) ∧
    ∃ t, step (running [osetOp]) = .next t := ⟨by decide, ⟨_, rfl⟩, ⟨_, rfl⟩⟩

theorem witness_WordsKeepTheirWidth : (running [osetOp]).wordsFit = true ∧
    (∃ t, stepOf 0 (running [osetOp]) = .next t) ∧ ∃ t, step (running [osetOp]) = .next t :=
  ⟨by decide, ⟨_, rfl⟩, ⟨_, rfl⟩⟩

end Sys2Proof.Tests
end

section
/-! The parameters never change (R12): one law for each way a step can begin, then the statement. -/

namespace Sys2Proof.Machine

/-- A halted machine's answer is no next state (R40, R233). -/
theorem haltedBy_ne_next {s t : State} : haltedBy s ≠ some (.next t) := fun h => by
  rcases haltedBy_some h with ⟨_, hr⟩ | ⟨_, hr⟩ <;> cases hr

/-- Every next state of the machine's step is one of the chosen agent's step (R248). -/
theorem step_next {s t : State} (h : step s = .next t) : ∃ a, chooseAgent s = some a ∧ stepOf a s = .next t := by
  unfold step at h
  split at h
  · next hh => exact absurd (h ▸ hh) haltedBy_ne_next
  · split at h
    · cases h
    · next a ha => exact ⟨a, ha, h⟩

/-- A write by address that answers a next state ran `MemWrite` in a running machine (R16, R233). -/
theorem memWriteStep_next {addr bytes : Nat} {v : Word} {s t : State} (h : memWriteStep addr bytes v s = .next t) :
    s.running ∧ conclude s (memWrite addr bytes v s) = .next t := by
  unfold memWriteStep at h
  split at h
  · next hh => exact absurd (h ▸ hh) haltedBy_ne_next
  · next hh => exact ⟨haltedBy_none.mp hh, h⟩

/-- A read by address that answers a next state set one mark, or read a word into `ret` (R16, R233; log entry 12). -/
theorem memReadStep_next {addr bytes : Nat} {s t : State} (h : memReadStep addr bytes s = .next t) :
    s.running ∧ ((∃ r info, t = s.faulted r info) ∨ (∃ r, t = s.refusedFor r) ∨
      ∃ r s', memRead addr bytes s = .ok (r, s') ∧ t = setRet r s') := by
  unfold memReadStep at h
  split at h
  · next hh => exact absurd (h ▸ hh) haltedBy_ne_next
  · next hh =>
    refine ⟨haltedBy_none.mp hh, ?_⟩
    rcases conclude_next h with hok | ⟨r, info, -, rfl⟩ | ⟨r, -, rfl⟩
    · split at hok
      · next r s' hm => exact .inr (.inr ⟨r, s', hm, (Except.ok.inj hok).symm⟩)
      · cases hok
    · exact .inl ⟨r, info, rfl⟩
    · exact .inr (.inl ⟨r, rfl⟩)

/-- An instruction fetch by address has no next state but the one with the refusal recorded (R85). -/
theorem memFetchStep_next {addr : Nat} {s t : State} (h : memFetchStep addr s = .next t) :
    s.running ∧ t = s.refusedFor (memFetch addr s) := by
  unfold memFetchStep at h
  split at h
  · next hh => exact absurd (h ▸ hh) haltedBy_ne_next
  · next hh => exact ⟨haltedBy_none.mp hh, (Host.Outcome.next.inj h).symm⟩

/-- A write by address that completes is the write of a port (R16). -/
theorem memWrite_ok {addr bytes : Nat} {v : Word} {s s' : State} (h : memWrite addr bytes v s = .ok s') :
    ∃ c P, busAddress s.par addr bytes = .ok (c, .wo P) ∧ busWrite c P v s = .ok s' := by
  unfold memWrite at h
  split at h
  · cases h
  · cases h
  · next c P hb => exact ⟨c, P, hb, h⟩

/-- A read by address that completes is the read of a port (R16). -/
theorem memRead_ok {addr bytes : Nat} {s s' : State} {r : Word} (h : memRead addr bytes s = .ok (r, s')) :
    ∃ c P, busAddress s.par addr bytes = .ok (c, P) ∧ busRead c P s = .ok (r, s') := by
  unfold memRead at h
  split at h
  · cases h
  · next c P hb => exact ⟨c, P, hb, h⟩

theorem readValue_par (P : Port) (s : State) : (readValue P s).2.par = s.par := by
  rw [readValue_eq]

theorem busWrite_par {c : Nat} {P : WritePort} {v : Word} {s s' : State} (h : busWrite c P v s = .ok s') :
    s'.par = s.par := by
  obtain ⟨ctl, -, -, rfl⟩ := busWrite_ok.mp h
  simp

theorem busRead_par {c : Nat} {P : Port} {s s' : State} {r : Word} (h : busRead c P s = .ok (r, s')) :
    s'.par = s.par := by
  obtain ⟨-, -, rfl⟩ := busRead_ok.mp h
  simp [readValue_par]

theorem exec_par {i : Instr} {s t : State} (h : exec i s = .next t) : t.par = s.par := by
  obtain ⟨-, ag, m, -, -, ⟨r, info, rfl⟩ | ⟨r, rfl⟩ | ⟨_, _, _, _, _, -, -, -, -, rfl⟩⟩ := exec_next h <;> rfl

theorem stepOf_par {a : Nat} {s t : State} (h : stepOf a s = .next t) : t.par = s.par := by
  obtain ⟨-, ⟨r, -, rfl⟩ | ⟨i, -, hi⟩⟩ := stepOf_next h
  · rfl
  · exact (exec_par hi).trans (issueTo_par a s)

theorem step_par {s t : State} (h : step s = .next t) : t.par = s.par := by
  obtain ⟨a, -, ha⟩ := step_next h
  exact stepOf_par ha

theorem memWriteStep_par {addr bytes : Nat} {v : Word} {s t : State} (h : memWriteStep addr bytes v s = .next t) :
    t.par = s.par := by
  obtain ⟨-, h⟩ := memWriteStep_next h
  rcases conclude_next h with hok | ⟨r, info, -, rfl⟩ | ⟨r, -, rfl⟩
  · obtain ⟨c, P, -, hw⟩ := memWrite_ok hok
    exact busWrite_par hw
  · rfl
  · rfl

theorem memReadStep_par {addr bytes : Nat} {s t : State} (h : memReadStep addr bytes s = .next t) : t.par = s.par := by
  obtain ⟨-, ⟨r, info, rfl⟩ | ⟨r, rfl⟩ | ⟨r, s', hm, rfl⟩⟩ := memReadStep_next h
  · rfl
  · rfl
  · obtain ⟨c, P, -, hr⟩ := memRead_ok hm
    exact (setRet_par r s').trans (busRead_par hr)

theorem memFetchStep_par {addr : Nat} {s t : State} (h : memFetchStep addr s = .next t) : t.par = s.par := by
  obtain ⟨-, rfl⟩ := memFetchStep_next h
  rfl

/-- Settles O36, from the law of each way to step: none of them touches the field `par`. -/
theorem parametersAreFixed : Obligations.ParametersAreFixed := fun s _ =>
  ⟨fun _ => stepOf_par, step_par, fun _ => exec_par, fun _ _ _ => memWriteStep_par, fun _ _ => memReadStep_par,
    fun _ => memFetchStep_par, resetEvent_par s⟩

end Sys2Proof.Machine
end

section
/-! Every word stays `W` bits wide (R14): the widths of a state as a predicate with one law for each update of the state and
for each shared operation. -/

namespace Sys2Proof.Machine

/-- Every word of the list is `w` bits wide. -/
def WordsBelow (w : Nat) (ws : List Word) : Prop := ∀ v ∈ ws, v < 2 ^ w

@[simp] theorem wordsBelow_nil {w : Nat} : WordsBelow w [] := by simp [WordsBelow]

@[simp] theorem wordsBelow_cons {w : Nat} {v : Word} {ws : List Word} :
    WordsBelow w (v :: ws) ↔ v < 2 ^ w ∧ WordsBelow w ws := by simp [WordsBelow]

@[simp] theorem wordsBelow_append {w : Nat} {vs ws : List Word} :
    WordsBelow w (vs ++ ws) ↔ WordsBelow w vs ∧ WordsBelow w ws := List.forall_mem_append

theorem WordsBelow.subset {w : Nat} {vs ws : List Word} (h : WordsBelow w ws) (hs : vs ⊆ ws) : WordsBelow w vs :=
  fun v hv => h v (hs hv)

/-- Every word of the state is `w` bits wide, part by part. -/
structure State.WidthBelow (w : Nat) (s : State) : Prop where
  ctrl : ∀ ctl ∈ s.ctrl, WordsBelow w ctl.words
  agent : ∀ ag ∈ s.agent, WordsBelow w ag.words
  trace : ∀ e ∈ s.trace, WordsBelow w e.words
  fault : ∀ f ∈ s.fault, WordsBelow w f.2.words

/-- The check `wordsFit` is `WidthBelow` at the machine's own width. -/
theorem State.wordsFit_iff {s : State} : s.wordsFit = true ↔ s.WidthBelow s.par.width := by
  have hall : s.wordsFit = true ↔ WordsBelow s.par.width s.words := by
    simp [State.wordsFit, WordsBelow, fits]
  rw [hall]
  simp only [State.words, wordsBelow_append]
  constructor
  · rintro ⟨⟨⟨hc, ha⟩, ht⟩, hf⟩
    exact ⟨fun x hx v hv => hc v (List.mem_flatMap_of_mem hx hv), fun x hx v hv => ha v (List.mem_flatMap_of_mem hx hv),
      fun x hx v hv => ht v (List.mem_flatMap_of_mem hx hv),
      fun x hx v hv => hf v (List.mem_flatMap_of_mem (Option.mem_toList.mpr hx) hv)⟩
  · intro h
    refine ⟨⟨⟨?_, ?_⟩, ?_⟩, ?_⟩ <;> intro v hv <;> obtain ⟨x, hx, hv⟩ := List.mem_flatMap.mp hv
    · exact h.ctrl x hx v hv
    · exact h.agent x hx v hv
    · exact h.trace x hx v hv
    · exact h.fault x (Option.mem_toList.mp hx) v hv

/-! ### A controller -/

/-- The words of a controller are its status fields and its port logs. -/
theorem Ctrl.mem_words {ctl : Ctrl} {v : Word} :
    v ∈ ctl.words ↔ (∃ F, v = ctl.field F) ∨ ∃ P, v = ctl.last.get P := by
  constructor
  · intro h
    rcases List.mem_append.mp h with h | h
    · obtain ⟨F, -, rfl⟩ := List.mem_map.mp h
      exact .inl ⟨F, rfl⟩
    · obtain ⟨P, -, rfl⟩ := List.mem_map.mp h
      exact .inr ⟨P, rfl⟩
  · rintro (⟨F, rfl⟩ | ⟨P, rfl⟩)
    · exact List.mem_append_left _ (List.mem_map_of_mem (by cases F <;> simp))
    · exact List.mem_append_right _ (List.mem_map_of_mem (by cases P <;> simp))

theorem wordsBelow_ctrl {w : Nat} {ctl : Ctrl} :
    WordsBelow w ctl.words ↔ (∀ F, ctl.field F < 2 ^ w) ∧ ∀ P, ctl.last.get P < 2 ^ w := by
  constructor
  · exact fun h => ⟨fun F => h _ (Ctrl.mem_words.mpr (.inl ⟨F, rfl⟩)), fun P => h _ (Ctrl.mem_words.mpr (.inr ⟨P, rfl⟩))⟩
  · rintro ⟨hf, hl⟩ v hv
    rcases Ctrl.mem_words.mp hv with ⟨F, rfl⟩ | ⟨P, rfl⟩
    · exact hf F
    · exact hl P

/-- Setting and clearing bits of a word keep its width (R102). -/
theorem applyKind_lt {w : Nat} (k : PortKind) {f v : Word} (hf : f < 2 ^ w) (hv : v < 2 ^ w) : applyKind k f v < 2 ^ w := by
  cases k with
  | set => exact Nat.or_lt_two_pow hf hv
  | clear => exact andNot_lt hf v

/-- A bus write of a word of the width keeps the width of its controller's words (R130). -/
theorem Ctrl.written_width {w : Nat} {ctl : Ctrl} {v : Word} (h : WordsBelow w ctl.words) (P : WritePort)
    (hv : v < 2 ^ w) : WordsBelow w (ctl.written P v).words := by
  obtain ⟨hf, hl⟩ := wordsBelow_ctrl.mp h
  refine wordsBelow_ctrl.mpr ⟨fun F => ?_, fun Q => ?_⟩
  · rw [Ctrl.written_field]
    split
    · exact applyKind_lt _ (hf F) hv
    · exact hf F
  · rw [Ctrl.written_last, PortLog.get_put]
    split
    · exact hv
    · exact hl Q

/-! ### The updates of the state -/

/-- What changing one entry of a list leaves in it. -/
theorem mem_modify {α : Type} {f : α → α} {l : List α} {n : Nat} {x : α} (h : x ∈ l.modify n f) :
    x ∈ l ∨ ∃ y ∈ l, x = f y := by
  obtain ⟨m, hm⟩ := List.mem_iff_getElem?.mp h
  rw [List.getElem?_modify] at hm
  obtain ⟨y, hy, rfl⟩ := Option.map_eq_some_iff.mp hm
  have hmem := List.mem_of_getElem? hy
  split
  · exact .inr ⟨y, hmem, rfl⟩
  · exact .inl hmem

section
variable {w : Nat} {s : State}

theorem State.WidthBelow.setCtrl (h : s.WidthBelow w) {ctl : Ctrl} (hctl : WordsBelow w ctl.words) (c : Nat) :
    (setCtrl c ctl s).WidthBelow w where
  ctrl x hx := (List.mem_or_eq_of_mem_set hx).elim (h.ctrl x) (· ▸ hctl)
  agent := h.agent
  trace := h.trace
  fault := h.fault

theorem State.WidthBelow.updAgent (h : s.WidthBelow w) {f : Agent → Agent}
    (hf : ∀ ag, WordsBelow w ag.words → WordsBelow w (f ag).words) : (updAgent f s).WidthBelow w where
  ctrl := h.ctrl
  agent x hx := by
    rcases mem_modify hx with hx | ⟨ag, hag, rfl⟩
    · exact h.agent x hx
    · exact hf ag (h.agent ag hag)
  trace := h.trace
  fault := h.fault

theorem State.WidthBelow.setTmp (h : s.WidthBelow w) {v : Option Word} (hv : WordsBelow w v.toList) :
    (setTmp v s).WidthBelow w :=
  h.updAgent fun ag hag => by
    simp only [Agent.words, wordsBelow_append] at hag ⊢
    exact ⟨⟨hv, hag.1.2⟩, hag.2⟩

theorem State.WidthBelow.setRet (h : s.WidthBelow w) {v : Word} (hv : v < 2 ^ w) : (setRet v s).WidthBelow w :=
  h.updAgent fun ag hag => by
    simp only [Agent.words, wordsBelow_append] at hag ⊢
    exact ⟨⟨hag.1.1, by simpa using hv⟩, hag.2⟩

theorem State.WidthBelow.advance (h : s.WidthBelow w) (n : Nat) : (advance n s).WidthBelow w :=
  h.updAgent fun _ hag => hag

theorem State.WidthBelow.logEvent (h : s.WidthBelow w) {e : Event} (he : WordsBelow w e.words) :
    (logEvent e s).WidthBelow w where
  ctrl := h.ctrl
  agent := h.agent
  trace x hx := (List.mem_append.mp hx).elim (h.trace x) fun hx => List.mem_singleton.mp hx ▸ he
  fault := h.fault

theorem State.WidthBelow.issueTo (h : s.WidthBelow w) (a : Nat) : (issueTo a s).WidthBelow w :=
  ⟨h.ctrl, h.agent, h.trace, h.fault⟩

theorem State.WidthBelow.refusedFor (h : s.WidthBelow w) (r : RefusalReason) : (s.refusedFor r).WidthBelow w :=
  ⟨h.ctrl, h.agent, h.trace, h.fault⟩

theorem State.WidthBelow.faulted (h : s.WidthBelow w) {info : FaultInfo} (hi : WordsBelow w info.words)
    (r : FaultReason) : (s.faulted r info).WidthBelow w where
  ctrl := h.ctrl
  agent := h.agent
  trace := h.trace
  fault _ hx := Option.some.inj hx ▸ hi

theorem State.WidthBelow.readValue (h : s.WidthBelow w) (P : Port) : (readValue P s).2.WidthBelow w := by
  rw [readValue_eq]
  exact ⟨h.ctrl, h.agent, h.trace, h.fault⟩

end

/-- A word that a read returns is 0 or drawn, so it is one of `W` bits (R160, R171). -/
theorem readWord_lt (P : Port) (s : State) : readWord P s < 2 ^ s.par.width := by
  have hdrawn : drawn s < 2 ^ s.par.width := BitVec.isLt _
  cases P with
  | level => rwa [readWord_level]
  | wo P =>
    cases hw : s.par.woRead with
    | zero => rw [readWord_zero hw]; exact Nat.two_pow_pos _
    | draw => rwa [readWord_draw hw]

/-! ### The ends of a step -/

/-- The words a stop records are `w` bits wide: a fault's are those of its `FaultInfo` (R231). -/
def Stop.WidthBelow (w : Nat) : Stop → Prop
  | .fault _ info => WordsBelow w info.words
  | _ => True

/-- What a step ends in has words of `w` bits only. -/
def EndsBelow (w : Nat) : Except Stop State → Prop
  | .ok s => s.WidthBelow w
  | .error e => e.WidthBelow w

/-- A step that ends below the width concludes below it (R233). -/
theorem conclude_width {w : Nat} {s t : State} {x : Except Stop State} (hs : s.WidthBelow w) (hx : EndsBelow w x)
    (h : conclude s x = .next t) : t.WidthBelow w := by
  rcases conclude_next h with rfl | ⟨r, info, rfl, rfl⟩ | ⟨r, rfl, rfl⟩
  · exact hx
  · exact hs.faulted hx r
  · exact hs.refusedFor r

/-- The words a `FaultInfo` of a port access records: the data, if there is one (R231). -/
theorem faultInfo_port_words (s : State) (c : Nat) (P : Port) (v : Option Word) :
    (faultInfo s c (.port P) v).words = v.toList := by simp [faultInfo, FaultInfo.words]

/-- The words a `FaultInfo` of an entry check records: the offending word, and the operation's own (R231). -/
theorem faultInfo_operation_words (s : State) (c : Nat) (i : Instr) (v : Option Word) :
    (faultInfo s c (.operation i) v).words = v.toList ++ i.words := rfl

theorem busWrite_width {w c : Nat} {P : WritePort} {v : Word} {s : State} (hs : s.WidthBelow w) (hv : v < 2 ^ w) :
    EndsBelow w (busWrite c P v s) := by
  have hinfo : WordsBelow w (faultInfo s c (.port (.wo P)) (some v)).words := by
    simpa [faultInfo_port_words] using hv
  unfold busWrite
  split
  · trivial
  · next ctl hc =>
    split
    · exact hinfo
    · split
      · exact hinfo
      · have hctl := Ctrl.written_width (hs.ctrl ctl (List.mem_of_getElem? hc)) P hv
        exact (hs.setCtrl hctl c).logEvent (by simpa [Event.words] using hv)

/-- A bus read answers a word of the width in a state of the width. -/
theorem busRead_ok_width {c : Nat} {P : Port} {s s' : State} {r : Word} (hs : s.WidthBelow s.par.width)
    (h : busRead c P s = .ok (r, s')) : r < 2 ^ s.par.width ∧ s'.WidthBelow s.par.width := by
  obtain ⟨-, rfl, rfl⟩ := busRead_ok.mp h
  have hr := readWord_lt P s
  exact ⟨hr, (hs.readValue P).logEvent (wordsBelow_cons.mpr ⟨hr, wordsBelow_nil⟩)⟩

/-- A bus read that stops records no word (R231). -/
theorem busRead_error_width {w c : Nat} {P : Port} {s : State} {e : Stop} (h : busRead c P s = .error e) :
    e.WidthBelow w := by
  unfold busRead at h
  split at h
  · cases h; trivial
  · split at h
    · cases h
      simp [Stop.WidthBelow, faultInfo_port_words]
    · cases h

theorem clockOn_width {w c : Nat} {s : State} (hs : s.WidthBelow w) : EndsBelow w (clockOn c s) := by
  unfold clockOn
  split
  · trivial
  · next ctl hc =>
    have hctl : WordsBelow w { ctl with clkEn := true }.words := hs.ctrl ctl (List.mem_of_getElem? hc)
    exact (hs.setCtrl hctl c).logEvent (e := .clockEnable s.cur c) wordsBelow_nil

theorem curTmp_width {w : Nat} {s : State} {x : Word} (hs : s.WidthBelow w) (h : curTmp s = some x) : x < 2 ^ w := by
  unfold curTmp at h
  split at h
  · next ag hag =>
    exact hs.agent ag (List.mem_of_getElem? hag) x (by simp [Agent.words, h])
  · cases h

/-! ### One micro-step -/

/-- The operand words of a micro-step (R190). -/
def MicroOp.words : MicroOp → List Word
  | .wr _ v => [v]
  | .wro _ m => [m]
  | .rdl m => [m]
  | .rd _ | .rdRet _ | .clk => []

/-- One micro-step keeps the width (R190). -/
theorem micro_width {c : Nat} {m : MicroOp} {s : State} (hs : s.WidthBelow s.par.width)
    (hm : WordsBelow s.par.width m.words) : EndsBelow s.par.width (micro c m s) := by
  cases m with
  | wr P v => exact busWrite_width hs (by simpa [MicroOp.words] using hm)
  | wro P k =>
    have hk : k < 2 ^ s.par.width := by simpa [MicroOp.words] using hm
    simp only [micro]
    split
    · next x hx => exact busWrite_width (hs.setTmp (by simp)) (Nat.or_lt_two_pow (curTmp_width hs hx) hk)
    · trivial
  | rd P =>
    simp only [micro]
    split
    · next hr =>
      obtain ⟨hr, hs'⟩ := busRead_ok_width hs hr
      exact hs'.setTmp (by simpa using hr)
    · next he => exact busRead_error_width he
  | rdl k =>
    simp only [micro]
    split
    · next hr =>
      obtain ⟨hr, hs'⟩ := busRead_ok_width hs hr
      exact hs'.setRet (Nat.lt_of_le_of_lt Nat.and_le_left hr)
    · next he => exact busRead_error_width he
  | rdRet P =>
    simp only [micro]
    split
    · next hr =>
      obtain ⟨hr, hs'⟩ := busRead_ok_width hs hr
      exact hs'.setRet hr
    · next he => exact busRead_error_width he
  | clk => exact clockOn_width hs

/-! ### Issuing an instruction -/

/-- Every word of a micro-step is an operand word of its operation (R190 to R197). -/
theorem expand_words (p : Params) (i : Instr) : (expand p i).flatMap MicroOp.words ⊆ i.words := by
  cases i with
  | cfgPullup c mask enable => cases enable <;> simp [expand, expandCfgPullup, MicroOp.words, Instr.words]
  | cfgInput c mask attrs =>
    simp only [expand, expandCfgInput]
    split <;> split <;> simp [MicroOp.words, Instr.words]
  | cfgOutput c mask level md pu =>
    cases md <;> cases pu <;> simp [expand, expandCfgOutput, MicroOp.words, Instr.words]
  | _ => simp [expand, expandSetHigh, expandSetLow, expandGetLevel, expandClockEnable, MicroOp.words, Instr.words]

/-- The words the entry checks range over are operand words (R198). -/
theorem pinWords_subset_words (i : Instr) : i.pinWords ⊆ i.words := by
  cases i <;> simp [Instr.pinWords, Instr.words]

/-- The stop of a failed entry check records words of its operation only (R198, R231). -/
theorem entryCheck_width {w c : Nat} {i : Instr} {s : State} {e : Stop} (hi : WordsBelow w i.words)
    (h : entryCheck i c i.pinWords s = some e) : e.WidthBelow w := by
  unfold entryCheck at h
  split at h
  · cases h; trivial
  · split at h
    · cases h
      simpa [Stop.WidthBelow, faultInfo_operation_words] using hi
    · split at h
      · next v hv =>
        cases h
        have hmem : v ∈ i.words := pinWords_subset_words i (List.mem_of_find?_eq_some hv)
        simpa [Stop.WidthBelow, faultInfo_operation_words] using ⟨hi v hmem, hi⟩
      · cases h

/-- An operation has the three entry checks of R198 on its pin words, or none. -/
theorem checkOf_eq (i : Instr) : checkOf i = entryCheck i i.ctrlIndex i.pinWords ∨ checkOf i = noEntryCheck := by
  cases i <;> simp [checkOf]

theorem checkOf_width {w : Nat} {i : Instr} {s : State} {e : Stop} (hi : WordsBelow w i.words)
    (h : checkOf i s = some e) : e.WidthBelow w := by
  rcases checkOf_eq i with hc | hc <;> rw [hc] at h
  · exact entryCheck_width hi h
  · cases h

/-- Issuing a micro-step keeps the width, where its operands and what its entry checks record are of the width (R190). -/
theorem issueStep_width {check : State → Option Stop} {c : Nat} {ms : List MicroOp} {s : State}
    (hs : s.WidthBelow s.par.width) (hms : WordsBelow s.par.width (ms.flatMap MicroOp.words))
    (hchk : ∀ e, check s = some e → e.WidthBelow s.par.width) : EndsBelow s.par.width (issueStep check c ms s) := by
  unfold issueStep
  split
  · trivial
  · split
    · trivial
    · next m hm =>
      split
      · next e he =>
        split at he
        · exact hchk e he
        · cases he
      · have hmicro := micro_width (c := c) hs fun v hv => hms v (List.mem_flatMap_of_mem (List.mem_of_getElem? hm) hv)
        split
        · next hok => exact (hok ▸ hmicro : EndsBelow _ (.ok _)).advance _
        · next herr => exact (herr ▸ hmicro : EndsBelow _ (.error _))

/-- An instruction with operands of the width keeps the width. -/
theorem exec_width {i : Instr} {s t : State} (hs : s.WidthBelow s.par.width) (hi : WordsBelow s.par.width i.words)
    (h : exec i s = .next t) : t.WidthBelow s.par.width := by
  rw [exec_eq_issue] at h
  unfold issue at h
  split at h
  · next hh => exact absurd (h ▸ hh) haltedBy_ne_next
  · exact conclude_width hs (issueStep_width hs (hi.subset (expand_words s.par i)) fun _ => checkOf_width hi) h

/-! ### The step -/

/-- A bus read has no operand word (R106). -/
theorem readInstr_words (P : Port) (c : Nat) : (readInstr P c).words = [] := by
  cases P with
  | level => rfl
  | wo P => cases P <;> rfl

/-- The one operand word of a bus write is its data (R106). -/
theorem writeInstr_words (P : WritePort) (c : Nat) (v : Word) : (writeInstr P c v).words = [v] := by
  cases P <;> rfl

/-- A decoded instruction takes its operand words from the record (R106). -/
theorem withOperands_words (oc : OpCode) (o : Operands) : (oc.withOperands o).words ⊆ o.words := by
  cases oc with
  | br P => simp [OpCode.withOperands, readInstr_words]
  | bw P => simp [OpCode.withOperands, writeInstr_words, Operands.words]
  | _ => simp [OpCode.withOperands, Instr.words, Operands.words]

theorem decode_words {m : RegOffsets} {op : Op} {i : Instr} (h : decode m op = .ok i) : i.words ⊆ op.operands.words := by
  unfold decode at h
  split at h
  · next oc _ => exact Except.ok.inj h ▸ withOperands_words oc op.operands
  · cases h

/-- An operation that an agent decodes has operands of the width (R106, R111). -/
theorem fetch_width {w : Nat} {s : State} {i : Instr} (hs : s.WidthBelow w) (h : fetch s = .ok i) :
    WordsBelow w i.words := by
  unfold fetch at h
  split at h
  · cases h
  · next ag hag =>
    split at h
    · cases h
    · next op hop =>
      split at h
      · next hd =>
        cases h
        intro v hv
        have hprog : v ∈ ag.prog.flatMap (fun op => op.operands.words) :=
          List.mem_flatMap.mpr ⟨op, List.mem_of_getElem? hop, decode_words hd hv⟩
        exact hs.agent ag (List.mem_of_getElem? hag) v (List.mem_append_right _ hprog)
      · cases h

theorem stepOf_width {a : Nat} {s t : State} (hs : s.WidthBelow s.par.width) (h : stepOf a s = .next t) :
    t.WidthBelow s.par.width := by
  obtain ⟨-, ⟨r, -, rfl⟩ | ⟨i, hf, hi⟩⟩ := stepOf_next h
  · exact (hs.issueTo a).refusedFor r
  · exact exec_width (s := issueTo a s) (hs.issueTo a) (fetch_width (hs.issueTo a) hf) hi

theorem stepOf_wordsFit {a : Nat} {s t : State} (hs : s.wordsFit = true) (h : stepOf a s = .next t) :
    t.wordsFit = true := by
  rw [State.wordsFit_iff, stepOf_par h]
  exact stepOf_width (State.wordsFit_iff.mp hs) h

/-- Settles O59: the width is kept by every micro-step and recorded fault of a decoded operation, and the operation a step
decodes takes its words from a program whose words have the width. -/
theorem wordsKeepTheirWidth : Obligations.WordsKeepTheirWidth := fun _ _ hs =>
  ⟨fun _ h => ⟨stepOf_par h, stepOf_wordsFit hs h⟩, fun h => by
    obtain ⟨a, -, ha⟩ := step_next h
    exact ⟨stepOf_par ha, stepOf_wordsFit hs ha⟩⟩

end Sys2Proof.Machine
end

section
/-! An access by address reaches the port its address names (R16, R71 to R73, R103). -/

namespace Sys2Proof

/-- The check `blocksDisjoint` is the pairwise disjointness of the blocks (R72). -/
theorem blocksDisjoint_iff {size : Nat} {bases : List Nat} :
    blocksDisjoint size bases = true ↔ bases.Pairwise fun b b' => b + size ≤ b' ∨ b' + size ≤ b := by
  induction bases with
  | nil => simp [blocksDisjoint]
  | cons b bs ih => simp [blocksDisjoint, ih]

/-- What `layoutOk` asks of the bases (R72). -/
theorem layoutOk_iff {n size addrW : Nat} {bases : List Nat} :
    layoutOk n size addrW bases = true ↔
      bases.length = n ∧ (∀ b ∈ bases, b % 4 = 0 ∧ b + size ≤ 2 ^ addrW) ∧
        bases.Pairwise fun b b' => b + size ≤ b' ∨ b' + size ≤ b := by
  simp [layoutOk, blocksDisjoint_iff, and_assoc]

/-- What `Params.wf` asks of the parameters (R11, R14, R72, R103). -/
theorem Params.wf_iff {p : Params} :
    p.wf = true ↔
      1 ≤ p.nPins ∧ p.nPins ≤ p.width ∧ 1 ≤ p.nCtrl ∧ 1 ≤ p.nAgents ∧
        layoutOk p.nCtrl p.blockSize p.addrW p.ctrlBase = true ∧ p.regOffset.wf = true ∧
        p.regOffset.inBlock p.blockSize = true ∧ ∀ v ∈ p.words, v < 2 ^ p.width := by
  simp [Params.wf, fits, and_assoc]

/-- Every port's offset is one of the eleven (R101). -/
theorem portOffset_mem (m : RegOffsets) (P : Port) : portOffset m P ∈ m.toList := by
  rcases P with P | _
  · cases P <;> simp [portOffset, RegOffsets.toList]
  · simp [portOffset, RegOffsets.toList]

/-- Every port's offset is inside the block (R103). -/
theorem portOffset_lt {m : RegOffsets} {size : Nat} (h : m.inBlock size = true) (P : Port) :
    (portOffset m P).toNat < size := by
  simp only [RegOffsets.inBlock, List.all_eq_true, decide_eq_true_eq] at h
  exact h _ (portOffset_mem m P)

/-- Every port's offset, as a number, is a multiple of 4 (R103). -/
theorem portOffset_mod_four {m : RegOffsets} (hm : m.wf = true) (P : Port) : (portOffset m P).toNat % 4 = 0 := by
  have h := congrArg BitVec.toNat (portOffset_aligned hm P)
  simpa [BitVec.extractLsb'_toNat] using h

namespace Machine

/-- Where the blocks are disjoint, an address inside the block at one of the bases is found there and in no other (R72). -/
theorem blockFrom_getElem {size addr base : Nat} {bases : List Nat}
    (hd : bases.Pairwise fun b b' => b + size ≤ b' ∨ b' + size ≤ b) {c : Nat} (hc : bases[c]? = some base)
    (hle : base ≤ addr) (hlt : addr < base + size) (start : Nat) :
    blockFrom size addr start bases = some (start + c, addr - base) := by
  induction bases generalizing c start with
  | nil => cases hc
  | cons b bs ih =>
    obtain ⟨hb, hbs⟩ := List.pairwise_cons.mp hd
    cases c with
    | zero =>
      obtain rfl : b = base := Option.some.inj hc
      simp [blockFrom, hle, hlt]
    | succ c =>
      have hne : ¬ (b ≤ addr ∧ addr < b + size) := by
        have := hb base (List.mem_of_getElem? hc)
        omega
      rw [blockFrom, if_neg hne, ih hbs hc, Nat.succ_add_eq_add_succ]

/-- Each offset in the block of controller `c` is found as that offset of controller `c` (R72). -/
theorem blockOf_base_add {p : Params} (hp : p.wf = true) {c base off : Nat} (hc : p.ctrlBase[c]? = some base)
    (hoff : off < p.blockSize) : blockOf p (base + off) = some (c, off) := by
  obtain ⟨-, -, -, -, hl, -⟩ := Params.wf_iff.mp hp
  obtain ⟨-, -, hd⟩ := layoutOk_iff.mp hl
  rw [blockOf, blockFrom_getElem hd hc (by omega) (by omega)]
  simp

/-- An access of `W` bits at the offset of a port reaches that port (R71 to R73, R103). -/
theorem busAddress_port {p : Params} (hp : p.wf = true) {c base bytes : Nat} (hc : p.ctrlBase[c]? = some base)
    (hw : 8 * bytes = p.width) (P : Port) :
    busAddress p (base + (portOffset p.regOffset P).toNat) bytes = .ok (c, P) := by
  obtain ⟨-, -, -, -, -, hm, hin, -⟩ := Params.wf_iff.mp hp
  simp [busAddress, blockOf_base_add hp hc (portOffset_lt hin P), hw, portOffset_mod_four hm P, portAt_self hm P]

/-- Settles O52: the address decodes to the controller and the port, and the access is then theirs by definition. -/
theorem addressedAccessIsThePortAccess : Obligations.AddressedAccessIsThePortAccess := by
  intro s c base bytes hp hc hw
  refine ⟨fun P v => ?_, fun P => ?_⟩
  · rw [memWrite, busAddress_port hp hc hw]
  · rw [memRead, busAddress_port hp hc hw]

end Machine
end Sys2Proof
end

section
/-! The invariants hold at reset (R41, R260), and the machine's own parameters meet what R11 asks of them. -/

namespace Sys2Proof

/-- `n + 1` blocks one after another from address 0 meet R72. -/
theorem layoutOk_consecutive (n : Nat) :
    layoutOk (n + 1) 0x200 (n + 10) ((List.range (n + 1)).map (· * 0x200)) = true := by
  have hpow : n < 2 ^ n := Nat.lt_two_pow_self
  refine layoutOk_iff.mpr ⟨by simp, fun b hb => ?_, ?_⟩
  · obtain ⟨k, hk, rfl⟩ := List.mem_map.mp hb
    have hk := List.mem_range.mp hk
    exact ⟨by omega, by rw [pow_add]; omega⟩
  · exact List.pairwise_map.mpr (List.pairwise_lt_range.imp fun h => by omega)

/-- The machine's own address layout meets R72, whatever the OPEN values are (log entry 3). -/
theorem Config.params_layoutOk :
    layoutOk Config.params.nCtrl Config.params.blockSize Config.params.addrW Config.params.ctrlBase = true := by
  simp only [Config.params, Config.defaults]
  split
  · assumption
  · exact layoutOk_consecutive _

/-- The machine's own parameters meet R11, R14, R72 and R103. -/
theorem Config.params_wf : Config.params.wf = true :=
  Params.wf_iff.mpr ⟨by decide, by decide, Nat.succ_pos _, by decide, Config.params_layoutOk, by decide, by decide, by decide⟩

namespace Machine

theorem sameBeyondPins_self (p : Params) (v : Word) : sameBeyondPins p v v = true := by
  simp [sameBeyondPins]

/-- Every port log is 0 at reset (R38, R41). -/
@[simp] theorem PortLog.reset_get (P : WritePort) : PortLog.reset.get P = 0 := by
  cases P <;> rfl

/-- The status fields at reset are words of the parameters (R11, R41). -/
theorem Ctrl.reset_field_mem (p : Params) (F : StatusField) : (Ctrl.reset p).field F ∈ p.words := by
  cases F <;> simp [Ctrl.reset, Ctrl.field, Params.words]

theorem Ctrl.reset_ok (p : Params) : Ctrl.ok p (Ctrl.reset p) = true := by
  have hlast (P : WritePort) : (Ctrl.reset p).last.get P = 0 := PortLog.reset_get P
  simp [Ctrl.ok, sameBeyondPins_self, hlast]

theorem Agent.reset_ok (p : Params) : Agent.ok p Agent.reset = true := rfl

theorem Ctrl.reset_width {p : Params} (hp : p.wf = true) : WordsBelow p.width (Ctrl.reset p).words := by
  obtain ⟨-, -, -, -, -, -, -, hw⟩ := Params.wf_iff.mp hp
  refine wordsBelow_ctrl.mpr ⟨fun F => hw _ (Ctrl.reset_field_mem p F), fun P => ?_⟩
  exact (PortLog.reset_get P).symm ▸ Nat.two_pow_pos _

theorem resetWith_inv {p : Params} (hp : p.wf = true) : (State.resetWith p).inv = true := by
  simp [State.inv, State.resetWith, hp, Ctrl.reset_ok, Agent.reset_ok]

theorem resetWith_wordsFit {p : Params} (hp : p.wf = true) : (State.resetWith p).wordsFit = true :=
  State.wordsFit_iff.mpr
    { ctrl := fun _ hc => List.eq_of_mem_replicate hc ▸ Ctrl.reset_width hp
      agent := fun _ ha => List.eq_of_mem_replicate ha ▸ wordsBelow_nil
      trace := fun _ he => nomatch he
      fault := fun _ hf => nomatch hf }

/-- Settles O57: a reset controller holds reset words and zeros, a reset agent no program, and the machine's own parameters
are well formed. -/
theorem invariantHoldsAtReset : Obligations.InvariantHoldsAtReset :=
  ⟨fun _ hp => ⟨resetWith_inv hp, resetWith_wordsFit hp⟩, Config.params_wf, resetWith_inv Config.params_wf,
    resetWith_wordsFit Config.params_wf⟩

end Machine
end Sys2Proof
end

section
/-! What a step does to the controllers and the trace: one inversion law for a step of an agent, from which the rules about
status fields, the clock, the trace and the bits beyond the pins follow. -/

namespace Sys2Proof.Machine

theorem State.faulted_not_running (s : State) (r : FaultReason) (info : FaultInfo) : ¬ (s.faulted r info).running :=
  fun h => nomatch h.1

theorem State.refusedFor_not_running (s : State) (r : RefusalReason) : ¬ (s.refusedFor r).running :=
  fun h => nomatch h.2

/-- An instruction that answers a state without a mark completed the micro-step its agent stood at (R190). -/
theorem exec_completed {i : Instr} {s t : State} (h : exec i s = .next t) (ht : t.running) :
    ∃ ag m s', s.agent[s.cur]? = some ag ∧ (expand s.par i)[ag.pc.j]? = some m ∧ micro i.ctrlIndex m s = .ok s' ∧
      t = advance (expand s.par i).length s' := by
  rw [exec_eq_issue] at h
  obtain ⟨-, ag, m, hag, hm, ⟨r, info, rfl⟩ | ⟨r, rfl⟩ | ⟨-, s', hmic, rfl⟩⟩ := issue_next h
  · exact absurd ht (s.faulted_not_running r info)
  · exact absurd ht (s.refusedFor_not_running r)
  · exact ⟨ag, m, s', hag, hm, hmic, rfl⟩

/-- A completed access or clock enable of agent `a` on controller `c`: the event it logs, and the controller it leaves in the
place of `ctl` (R40, R130, R160, R196). -/
inductive Access (p : Params) (a c : Nat) (ctl : Ctrl) : Event → Ctrl → Prop
  | write (P v) : pinsExist p v → Access p a c ctl (.write a c P v) (ctl.written P v)
  | read (P v) : Access p a c ctl (.read a c P v) ctl
  | clockEnable : Access p a c ctl (.clockEnable a c) { ctl with clkEn := true }

/-- From `s` to `t`, agent `a` made one access: one controller and the trace changed by it. -/
def Accessed (a : Nat) (s t : State) : Prop :=
  ∃ c ctl ctl' e, s.ctrl[c]? = some ctl ∧ Access s.par a c ctl e ctl' ∧ t.ctrl = s.ctrl.set c ctl' ∧
    t.trace = s.trace ++ [e]

/-- A read leaves the controllers and logs its value (R160, R171). -/
theorem accessed_read {s : State} {c : Nat} (hc : ∃ ctl, s.clocked c ctl) (P : Port) :
    Accessed s.cur s (logEvent (.read s.cur c P (readValue P s).1) (readValue P s).2) := by
  obtain ⟨ctl, hc, -⟩ := hc
  refine ⟨c, ctl, ctl, _, hc, .read P (readValue P s).1, ?_, ?_⟩
  · rw [set_getElem?_self hc, logEvent_ctrl, readValue_eq]
  · rw [logEvent_trace, readValue_eq]

/-- Every completed micro-step is one access of the issuing agent (R190). -/
theorem micro_accessed {c : Nat} {m : MicroOp} {s s' : State} (h : micro c m s = .ok s') : Accessed s.cur s s' := by
  cases m with
  | wr P v =>
    obtain ⟨ctl, ⟨hc, -⟩, hv, rfl⟩ := micro_wr_ok.mp h
    exact ⟨c, ctl, _, _, hc, .write P v hv, rfl, rfl⟩
  | wro P k =>
    obtain ⟨ctl, x, -, ⟨hc, -⟩, hv, rfl⟩ := micro_wro_ok.mp h
    exact ⟨c, ctl, _, _, hc, .write P (x ||| k) hv, rfl, rfl⟩
  | rd P =>
    obtain ⟨hc, rfl⟩ := micro_rd_ok.mp h
    exact accessed_read hc (.wo P)
  | rdl k =>
    obtain ⟨hc, rfl⟩ := micro_rdl_ok.mp h
    exact accessed_read hc .level
  | rdRet P =>
    obtain ⟨hc, rfl⟩ := micro_rdRet_ok.mp h
    exact accessed_read hc P
  | clk =>
    obtain ⟨ctl, hc, rfl⟩ := micro_clk_ok.mp h
    exact ⟨c, ctl, _, _, hc, .clockEnable, rfl, rfl⟩

/-- An instruction without a mark makes one access; with a mark it leaves the controllers and the trace (R40, R233). -/
theorem exec_accessed {i : Instr} {s t : State} (h : exec i s = .next t) :
    (t.running ∧ Accessed s.cur s t) ∨ (¬ t.running ∧ t.ctrl = s.ctrl ∧ t.trace = s.trace) := by
  by_cases ht : t.running
  · obtain ⟨ag, m, s', -, -, hmic, rfl⟩ := exec_completed h ht
    have hacc := micro_accessed hmic
    exact .inl ⟨ht, hacc⟩
  · refine .inr ⟨ht, ?_⟩
    obtain ⟨hr, ag, m, -, -, ⟨r, info, rfl⟩ | ⟨r, rfl⟩ | ⟨_, _, _, _, _, -, -, -, -, rfl⟩⟩ := exec_next h
    · exact ⟨rfl, rfl⟩
    · exact ⟨rfl, rfl⟩
    · exact absurd hr ht

/-- A step of agent `a` without a mark is one access of that agent; with a mark it leaves the controllers and the trace. -/
theorem stepOf_accessed {a : Nat} {s t : State} (h : stepOf a s = .next t) :
    (t.running ∧ Accessed a s t) ∨ (¬ t.running ∧ t.ctrl = s.ctrl ∧ t.trace = s.trace) := by
  obtain ⟨-, ⟨r, -, rfl⟩ | ⟨i, -, hi⟩⟩ := stepOf_next h
  · exact .inr ⟨State.refusedFor_not_running _ r, rfl, rfl⟩
  · exact exec_accessed hi

/-- What a step of agent `a` does to one controller: nothing, or what the access it logs does. -/
theorem stepOf_ctrl {a c : Nat} {s t : State} {ctl ctl' : Ctrl} (h : stepOf a s = .next t) (hc : s.ctrl[c]? = some ctl)
    (hc' : t.ctrl[c]? = some ctl') :
    ctl' = ctl ∨ ∃ e, Access s.par a c ctl e ctl' ∧ t.trace = s.trace ++ [e] := by
  rcases stepOf_accessed h with ⟨-, d, old, new, e, hd, hacc, hctrl, htrace⟩ | ⟨-, hctrl, -⟩
  · by_cases hdc : d = c
    · subst hdc
      obtain rfl : old = ctl := Option.some.inj (hd.symm.trans hc)
      have hnew : t.ctrl[d]? = some new := by
        rw [hctrl, List.getElem?_set_self (List.getElem?_eq_some_iff.mp hc).1]
      obtain rfl : new = ctl' := Option.some.inj (hnew.symm.trans hc')
      exact .inr ⟨e, hacc, htrace⟩
    · rw [hctrl, List.getElem?_set_ne hdc, hc] at hc'
      exact .inl (Option.some.inj hc').symm
  · rw [hctrl, hc] at hc'
    exact .inl (Option.some.inj hc').symm

@[simp] theorem Ctrl.field_clkEn (ctl : Ctrl) (b : Bool) (F : StatusField) :
    { ctl with clkEn := b }.field F = ctl.field F := by
  cases F <;> rfl

/-- Settles O33: of the three accesses only a write changes a status field, and a write only its port's. -/
theorem statusFieldsChangeOnlyByTheirPorts : Obligations.StatusFieldsChangeOnlyByTheirPorts := by
  intro s t a c ctl ctl' F h hc hc' hne
  obtain rfl | ⟨e, hacc, htrace⟩ := stepOf_ctrl h hc hc'
  · exact absurd rfl hne
  cases hacc with
  | write P v _ =>
    rw [Ctrl.written_field] at hne
    have hF : portField P = F := by
      by_contra hF
      exact hne (if_neg hF)
    refine ⟨P, v, hF, htrace, ?_, ?_⟩
    · rw [Ctrl.written_last, PortLog.get_put, if_pos rfl]
    · rw [Ctrl.written_field, if_pos hF]
      cases portKind P <;> rfl
  | read => exact absurd rfl hne
  | clockEnable => exact absurd (ctl.field_clkEn true F) hne

/-- A field with no clear port keeps the bits it has (R101, R102). -/
theorem stepOf_field_keeps {a c : Nat} {s t : State} {ctl ctl' : Ctrl} {F : StatusField}
    (hF : ∀ P, portField P = F → portKind P = .set) (h : stepOf a s = .next t) (hc : s.ctrl[c]? = some ctl)
    (hc' : t.ctrl[c]? = some ctl') {n : Nat} (hn : (ctl.field F).testBit n = true) : (ctl'.field F).testBit n = true := by
  by_cases heq : ctl'.field F = ctl.field F
  · rwa [heq]
  · obtain ⟨P, v, hP, -, -, hval⟩ := statusFieldsChangeOnlyByTheirPorts s t a c ctl ctl' F h hc hc' heq
    simp [hval, hF P hP, hn]

/-- `DEN` is the one port of `out_en` (R101). -/
theorem den_of_field {P : WritePort} (h : portField P = .outEn) : P = .den := by
  cases P with
  | den => rfl
  | _ => cases h

/-- `PEN` is the one port of `pio_en` (R101). -/
theorem pen_of_field {P : WritePort} (h : portField P = .pioEn) : P = .pen := by
  cases P with
  | pen => rfl
  | _ => cases h

/-- Settles O34: the direction and the pin-enable field have one port each, and it sets (R101). -/
theorem outputsStayOutputs : Obligations.OutputsStayOutputs := by
  intro s t a c ctl ctl' h hc hc'
  refine ⟨fun hne => ?_, fun n => ⟨?_, ?_⟩⟩
  · obtain ⟨P, v, hP, htrace, -⟩ := statusFieldsChangeOnlyByTheirPorts s t a c ctl ctl' .outEn h hc hc' hne
    exact ⟨v, den_of_field hP ▸ htrace⟩
  · exact stepOf_field_keeps (F := .outEn) (fun P hP => den_of_field hP ▸ rfl) h hc hc'
  · exact stepOf_field_keeps (F := .pioEn) (fun P hP => pen_of_field hP ▸ rfl) h hc hc'

/-- Settles O35: a write and a read leave the clock enable, and a clock enable logs itself. -/
theorem clockStaysOn : Obligations.ClockStaysOn := by
  intro s t a c ctl ctl' h hc hc'
  obtain rfl | ⟨e, hacc, htrace⟩ := stepOf_ctrl h hc hc'
  · exact ⟨id, fun hoff hon => absurd (hoff.symm.trans hon) Bool.false_ne_true⟩
  cases hacc with
  | write P v _ =>
    rw [Ctrl.written_clkEn]
    exact ⟨id, fun hoff hon => absurd (hoff.symm.trans hon) Bool.false_ne_true⟩
  | read => exact ⟨id, fun hoff hon => absurd (hoff.symm.trans hon) Bool.false_ne_true⟩
  | clockEnable => exact ⟨fun _ => rfl, fun _ _ => htrace⟩

/-- Settles O37: a step without a mark is one access, whose event it appends. -/
theorem traceOnlyGrows : Obligations.TraceOnlyGrows := by
  intro s t a h
  rcases stepOf_accessed h with ⟨ht, c, ctl, ctl', e, -, hacc, -, htrace⟩ | ⟨ht, -, htrace⟩
  · refine ⟨fun _ => ⟨e, htrace, ?_⟩, absurd ht⟩
    cases hacc with
    | read P v => exact .inl ⟨c, P, v, rfl⟩
    | write P v _ => exact .inr (.inl ⟨c, P, v, rfl⟩)
    | clockEnable => exact .inr (.inr ⟨c, rfl⟩)
  · exact ⟨(absurd · ht), fun _ => htrace⟩

end Sys2Proof.Machine
end

section
/-! The bits of pins that do not exist (R42, R130): a write in range leaves them, so every step does. -/

namespace Sys2Proof.Machine

/-- Setting or clearing bits of `mask` only leaves every other bit (R102). -/
theorem applyKind_andNot (k : PortKind) {f v mask : Word} (hv : andNot v mask = 0) :
    andNot (applyKind k f v) mask = andNot f mask := by
  apply Nat.eq_of_testBit_eq
  intro n
  cases hvn : v.testBit n with
  | false => cases k <;> simp [applyKind, hvn]
  | true =>
    have hmask := andNot_eq_zero.mp hv n hvn
    cases k <;> simp [applyKind, hmask]

/-- A write in range leaves the bits beyond the pins of every status field (R42, R130). -/
theorem Ctrl.written_field_beyondPins {p : Params} {v : Word} (hv : pinsExist p v) (ctl : Ctrl) (P : WritePort)
    (F : StatusField) : andNot ((ctl.written P v).field F) (pinsMask p) = andNot (ctl.field F) (pinsMask p) := by
  rw [Ctrl.written_field]
  split
  · exact applyKind_andNot _ hv
  · rfl

/-- A write in range logs no bit beyond the pins (R38, R42). -/
theorem Ctrl.written_last_beyondPins {p : Params} {v : Word} (hv : pinsExist p v) {ctl : Ctrl} (P : WritePort)
    {Q : WritePort} (hQ : andNot (ctl.last.get Q) (pinsMask p) = 0) :
    andNot ((ctl.written P v).last.get Q) (pinsMask p) = 0 := by
  rw [Ctrl.written_last, PortLog.get_put]
  split
  · exact hv
  · exact hQ

/-- Settles O42: a write is in range where it completes, and no other access touches a field or a log. -/
theorem bitsBeyondPinsNeverChange : Obligations.BitsBeyondPinsNeverChange := by
  intro s t a c ctl ctl' h hc hc'
  obtain rfl | ⟨e, hacc, -⟩ := stepOf_ctrl h hc hc'
  · exact ⟨fun _ => rfl, fun _ => id⟩
  cases hacc with
  | write P v hv => exact ⟨ctl.written_field_beyondPins hv P, fun Q => Ctrl.written_last_beyondPins hv P⟩
  | read => exact ⟨fun _ => rfl, fun _ => id⟩
  | clockEnable => exact ⟨fun F => by rw [Ctrl.field_clkEn], fun _ => id⟩

end Sys2Proof.Machine
end

section
/-! Every step keeps the invariant: for a controller by the bits beyond the pins, for an agent because the micro-steps of
every operation pair each read into `tmp` with the write that takes it (R33, R195). -/

namespace Sys2Proof.Machine

/-- What `State.inv` asks of a state, part by part. -/
theorem State.inv_iff {s : State} :
    s.inv = true ↔ s.par.wf = true ∧ s.ctrl.length = s.par.nCtrl ∧ s.agent.length = s.par.nAgents ∧
      (∀ ctl ∈ s.ctrl, Ctrl.ok s.par ctl = true) ∧ ∀ ag ∈ s.agent, Agent.ok s.par ag = true := by
  simp [State.inv, and_assoc]

/-! ### A controller -/

theorem xor_andNot (v w mask : Word) : andNot (v ^^^ w) mask = andNot v mask ^^^ andNot w mask := by
  apply Nat.eq_of_testBit_eq
  intro n
  cases hn : mask.testBit n <;> simp [hn]

/-- Words agree beyond the pins where nothing is left of their difference there (R42). -/
theorem sameBeyondPins_iff {p : Params} {v w : Word} :
    sameBeyondPins p v w = true ↔ andNot v (pinsMask p) = andNot w (pinsMask p) := by
  rw [sameBeyondPins, beq_iff_eq, xor_andNot, Nat.xor_eq_zero_iff]

/-- What `Ctrl.ok` asks of a controller: of each status field and of each port log (R42). -/
theorem Ctrl.ok_iff {p : Params} {ctl : Ctrl} :
    Ctrl.ok p ctl = true ↔
      (∀ F, andNot (ctl.field F) (pinsMask p) = andNot ((Ctrl.reset p).field F) (pinsMask p)) ∧
        ∀ P, andNot (ctl.last.get P) (pinsMask p) = 0 := by
  rw [Ctrl.ok, Bool.and_eq_true, List.all_eq_true, List.all_eq_true]
  refine and_congr
    ⟨fun h F => sameBeyondPins_iff.mp (h F (by cases F <;> decide)), fun h F _ => sameBeyondPins_iff.mpr (h F)⟩
    ⟨fun h P => ?_, fun h P _ => sameBeyondPins_iff.mpr ?_⟩
  · rw [sameBeyondPins_iff.mp (h P (by cases P <;> decide)), zero_andNot]
  · rw [h P, zero_andNot]

theorem Access.ctrl_ok {p : Params} {a c : Nat} {ctl ctl' : Ctrl} {e : Event} (h : Access p a c ctl e ctl')
    (hok : Ctrl.ok p ctl = true) : Ctrl.ok p ctl' = true := by
  obtain ⟨hf, hl⟩ := Ctrl.ok_iff.mp hok
  cases h with
  | write P v hv =>
    exact Ctrl.ok_iff.mpr ⟨fun F => (ctl.written_field_beyondPins hv P F).trans (hf F),
      fun Q => Ctrl.written_last_beyondPins hv P (hl Q)⟩
  | read => exact hok
  | clockEnable => exact Ctrl.ok_iff.mpr ⟨fun F => by rw [Ctrl.field_clkEn, hf F], hl⟩

/-- An access leaves every controller in order, and as many of them. -/
theorem Accessed.ctrl_ok {a : Nat} {s t : State} (h : Accessed a s t) (hok : ∀ ctl ∈ s.ctrl, Ctrl.ok s.par ctl = true) :
    t.ctrl.length = s.ctrl.length ∧ ∀ ctl ∈ t.ctrl, Ctrl.ok s.par ctl = true := by
  obtain ⟨c, ctl, ctl', e, hc, hacc, hctrl, -⟩ := h
  rw [hctrl]
  refine ⟨List.length_set, fun x hx => ?_⟩
  rcases List.mem_or_eq_of_mem_set hx with hx | rfl
  · exact hok x hx
  · exact hacc.ctrl_ok (hok ctl (List.mem_of_getElem? hc))

/-! ### The micro-steps of an operation -/

/-- The micro-step leaves a value in `tmp` for the next one (R33, R190). -/
def MicroOp.setsTmp : MicroOp → Bool
  | .rd _ => true
  | _ => false

/-- From a `tmp` that holds a value or not, as `held` says, each micro-step of the list finds one exactly where it uses it,
and after the last there is none. -/
def tmpPaired : Bool → List MicroOp → Bool
  | held, [] => !held
  | held, m :: ms => m.usesTmp == held && tmpPaired m.setsTmp ms

/-- Every operation starts with an empty `tmp`, fills it before each use and leaves it empty (R33, R191 to R197). -/
theorem expand_tmpPaired (p : Params) (i : Instr) : tmpPaired false (expand p i) = true := by
  cases i with
  | cfgPullup c mask enable => cases enable <;> rfl
  | cfgInput c mask attrs =>
    simp only [expand, expandCfgInput]
    split <;> split <;> rfl
  | cfgOutput c mask level md pu => cases md <;> cases pu <;> rfl
  | _ => rfl

/-- In a paired list each micro-step sets `tmp` exactly where the next one uses it. -/
theorem tmpPaired_next {ms : List MicroOp} {held : Bool} {j : Nat} {m : MicroOp} (h : tmpPaired held ms = true)
    (hm : ms[j]? = some m) : m.setsTmp = ms[j + 1]?.any MicroOp.usesTmp := by
  induction ms generalizing held j with
  | nil => cases hm
  | cons m₀ ms ih =>
    simp only [tmpPaired, Bool.and_eq_true, beq_iff_eq] at h
    cases j with
    | zero =>
      obtain rfl : m₀ = m := Option.some.inj hm
      cases ms with
      | nil => simpa [tmpPaired] using h.2
      | cons m₁ ms =>
        simp only [tmpPaired, Bool.and_eq_true, beq_iff_eq] at h
        exact h.2.1.symm
    | succ j => exact ih h.2 hm

/-- Every operation has a first micro-step, and it uses no `tmp` (R190). -/
theorem expand_zero (p : Params) (i : Instr) : ∃ m, (expand p i)[0]? = some m ∧ m.usesTmp = false := by
  cases i with
  | cfgPullup c mask enable => cases enable <;> exact ⟨_, rfl, rfl⟩
  | cfgInput c mask attrs =>
    simp only [expand, expandCfgInput]
    split <;> exact ⟨_, rfl, rfl⟩
  | _ => exact ⟨_, rfl, rfl⟩

/-! ### An agent -/

/-- Between two operations, and at the end of its program, an agent with an empty `tmp` is in order (R31, R33). -/
theorem Agent.ok_of_start {p : Params} {ag : Agent} (hk : ag.pc.k ≤ ag.prog.length) (hj : ag.pc.j = 0)
    (ht : ag.tmp = none) : Agent.ok p ag = true := by
  unfold Agent.ok
  split
  · next hop =>
    have hlen := List.getElem?_eq_none_iff.mp hop
    simp [hj, ht, Nat.le_antisymm hk hlen]
  · split
    · simp [hj, ht]
    · next i _ =>
      obtain ⟨m, hm, hu⟩ := expand_zero p i
      simp [hj, ht, hm, hu]

/-- Inside an operation an agent is in order where the micro-step exists and finds the `tmp` it wants (R33, R190). -/
theorem Agent.ok_iff_of_decode {p : Params} {ag : Agent} {op : Op} {i : Instr} (hop : ag.prog[ag.pc.k]? = some op)
    (hd : decode p.regOffset op = .ok i) :
    Agent.ok p ag = true ↔ ∃ m, (expand p i)[ag.pc.j]? = some m ∧ ag.tmp.isSome = m.usesTmp := by
  simp only [Agent.ok, hop, hd]
  cases (expand p i)[ag.pc.j]? <;> simp

/-- A completed micro-step that found the `tmp` it wanted leaves a value there exactly where it sets one. -/
theorem AgentChange.tmp_isSome {ag ag' : Agent} {m : MicroOp} (h : AgentChange ag m ag')
    (ht : ag.tmp.isSome = m.usesTmp) : ag'.tmp.isSome = m.setsTmp := by
  cases h with
  | wr | rdl | rdRet | clk => exact ht
  | wro | rd => rfl

theorem AgentChange.prog_pc {ag ag' : Agent} {m : MicroOp} (h : AgentChange ag m ag') :
    ag'.prog = ag.prog ∧ ag'.pc = ag.pc := by
  cases h <;> exact ⟨rfl, rfl⟩

/-- A completed micro-step, and the advance after it, leave the agent in order (R33, R190). -/
theorem AgentChange.agent_ok {p : Params} {ag ag' : Agent} {op : Op} {i : Instr} {m : MicroOp} (h : AgentChange ag m ag')
    (hop : ag.prog[ag.pc.k]? = some op) (hd : decode p.regOffset op = .ok i) (hm : (expand p i)[ag.pc.j]? = some m)
    (hok : Agent.ok p ag = true) : Agent.ok p { ag' with pc := ag.pc.succ (expand p i).length } = true := by
  obtain ⟨m₀, hm₀, htmp⟩ := (Agent.ok_iff_of_decode hop hd).mp hok
  obtain rfl : m₀ = m := Option.some.inj (hm₀.symm.trans hm)
  obtain ⟨hprog, -⟩ := h.prog_pc
  have htmp' := (h.tmp_isSome htmp).trans (tmpPaired_next (expand_tmpPaired p i) hm)
  by_cases hlt : ag.pc.j + 1 < (expand p i).length
  · rw [Pos.succ_of_lt hlt]
    have hnext := List.getElem?_eq_getElem hlt
    refine (Agent.ok_iff_of_decode (op := op) (by rw [← hop, ← hprog]; rfl) hd).mpr ⟨_, hnext, ?_⟩
    rw [htmp', hnext]; rfl
  · rw [Pos.succ_of_not_lt hlt]
    rw [List.getElem?_eq_none_iff.mpr (Nat.le_of_not_lt hlt)] at htmp'
    have hk := (List.getElem?_eq_some_iff.mp hop).1
    exact Agent.ok_of_start (by rw [hprog]; exact hk) rfl (Option.not_isSome_iff_eq_none.mp (by simp [htmp']))

/-! ### A step -/

/-- What the issuing agent stands at where its operation is decoded (R31, R111). -/
theorem fetch_ok {s : State} {i : Instr} :
    fetch s = .ok i ↔
      ∃ ag op, s.agent[s.cur]? = some ag ∧ ag.prog[ag.pc.k]? = some op ∧ decode s.par.regOffset op = .ok i := by
  constructor
  · intro h
    unfold fetch at h
    split at h
    · cases h
    · next ag hag =>
      split at h
      · cases h
      · next op hop =>
        split at h
        · next hd => cases h; exact ⟨ag, op, hag, hop, hd⟩
        · cases h
  · rintro ⟨ag, op, hag, hop, hd⟩
    simp [fetch, curAgent, hag, hop, hd]

/-- The decoded instruction keeps the agents in order (R31, R33, R190). -/
theorem exec_agent_ok {i : Instr} {s t : State} (hf : fetch s = .ok i) (h : exec i s = .next t)
    (hok : ∀ ag ∈ s.agent, Agent.ok s.par ag = true) :
    t.agent.length = s.agent.length ∧ ∀ ag ∈ t.agent, Agent.ok s.par ag = true := by
  obtain ⟨ag₀, op, hag₀, hop, hd⟩ := fetch_ok.mp hf
  obtain ⟨-, ag, m, hag, hm, ⟨r, info, rfl⟩ | ⟨r, rfl⟩ | ⟨_, _, ag', _, _, -, -, hac, -, rfl⟩⟩ := exec_next h
  · exact ⟨rfl, hok⟩
  · exact ⟨rfl, hok⟩
  · obtain rfl : ag₀ = ag := Option.some.inj (hag₀.symm.trans hag)
    refine ⟨List.length_set, fun x hx => ?_⟩
    rcases List.mem_or_eq_of_mem_set hx with hx | rfl
    · exact hok x hx
    · exact hac.agent_ok hop hd hm (hok _ (List.mem_of_getElem? hag))

theorem stepOf_inv {a : Nat} {s t : State} (hs : s.inv = true) (h : stepOf a s = .next t) : t.inv = true := by
  obtain ⟨hwf, hnc, hna, hctrl, hagent⟩ := State.inv_iff.mp hs
  rw [State.inv_iff, stepOf_par h]
  have hc : t.ctrl.length = s.ctrl.length ∧ ∀ ctl ∈ t.ctrl, Ctrl.ok s.par ctl = true := by
    rcases stepOf_accessed h with ⟨-, hacc⟩ | ⟨-, heq, -⟩
    · exact hacc.ctrl_ok hctrl
    · rw [heq]
      exact ⟨rfl, hctrl⟩
  have ha : t.agent.length = s.agent.length ∧ ∀ ag ∈ t.agent, Agent.ok s.par ag = true := by
    obtain ⟨-, ⟨r, -, rfl⟩ | ⟨i, hf, hi⟩⟩ := stepOf_next h
    · exact ⟨rfl, hagent⟩
    · exact exec_agent_ok (s := issueTo a s) hf hi hagent
  exact ⟨hwf, hc.1.trans hnc, ha.1.trans hna, hc.2, ha.2⟩

/-- Settles O58: an access in range keeps the bits beyond the pins, and the `tmp` an agent holds after a micro-step is the
one its next micro-step wants. -/
theorem everyStepKeepsTheInvariant : Obligations.EveryStepKeepsTheInvariant := fun _ _ hs =>
  ⟨fun _ => stepOf_inv hs, fun h => by
    obtain ⟨a, -, ha⟩ := step_next h
    exact stepOf_inv hs ha⟩

end Sys2Proof.Machine
end

section
/-! A marked machine has no step (R40, R233), and the free choice falls on any agent that has not finished (R82, R248). -/

namespace Sys2Proof.Machine

theorem exec_running {i : Instr} {s t : State} (h : exec i s = .next t) : s.running := (exec_next h).1

theorem stepOf_running {a : Nat} {s t : State} (h : stepOf a s = .next t) : s.running := (stepOf_next h).1

theorem step_running {s t : State} (h : step s = .next t) : s.running := by
  obtain ⟨a, -, ha⟩ := step_next h
  exact stepOf_running ha

theorem State.running_of_endsWell {s : State} (h : s.endsWell = true) : s.running := by
  simp only [State.endsWell, Bool.and_eq_true, Option.isNone_iff_eq_none] at h
  exact ⟨h.1.2, h.2⟩

/-- Settles O8: whatever answers a next state, and a good end, has no mark. -/
theorem markedMachineHasNoStep : Obligations.MarkedMachineHasNoStep := fun _ hs =>
  ⟨Bool.eq_false_iff.mpr fun h => hs (State.running_of_endsWell h),
    fun _ _ _ => ⟨fun h => hs (step_running h), fun h => hs (stepOf_running h), fun h => hs (exec_running h)⟩⟩

/-- A step at an operation that decodes runs it (R31, R104, R111). -/
theorem stepOf_eq {s : State} {a : Nat} {i : Instr} (hr : s.running) (hf : fetch (issueTo a s) = .ok i) :
    stepOf a s = exec i (issueTo a s) := by
  simp [stepOf, haltedBy_none.mpr hr, hf]

/-- Settles O6: the fetch finds the decoded operation, and the step is its `exec`. -/
theorem stepRunsTheDecodedOperation : Obligations.StepRunsTheDecodedOperation := by
  intro s a ag op i hr ha hag hop hd
  have hf : fetch (issueTo a s) = .ok i := fetch_ok.mpr ⟨ag, op, hag, hop, hd⟩
  exact ⟨step_eq hr ha hf, (stepOf_eq hr hf).trans (step_eq hr ha hf).symm⟩

/-! ### The choice of an agent -/

/-- The listed agents are those that have not finished, each by its index (R31). -/
theorem mem_unfinishedFrom {start a : Nat} {ags : List Agent} :
    a ∈ unfinishedFrom start ags ↔ ∃ n ag, ags[n]? = some ag ∧ ag.pc.k < ag.prog.length ∧ a = start + n := by
  induction ags generalizing start with
  | nil => simp [unfinishedFrom]
  | cons ag₀ ags ih =>
    have hcons : (∃ n ag, (ag₀ :: ags)[n]? = some ag ∧ ag.pc.k < ag.prog.length ∧ a = start + n) ↔
        (ag₀.pc.k < ag₀.prog.length ∧ a = start) ∨ a ∈ unfinishedFrom (start + 1) ags := by
      rw [ih]
      constructor
      · rintro ⟨_ | n, ag, hag, hk, rfl⟩
        · obtain rfl : ag₀ = ag := Option.some.inj hag
          exact .inl ⟨hk, rfl⟩
        · exact .inr ⟨n, ag, hag, hk, by omega⟩
      · rintro (⟨hk, rfl⟩ | ⟨n, ag, hag, hk, rfl⟩)
        · exact ⟨0, ag₀, rfl, hk, rfl⟩
        · exact ⟨n + 1, ag, hag, hk, by omega⟩
    rw [hcons, unfinishedFrom]
    split
    · next hu => simp [of_decide_eq_true hu]
    · next hu => simp [of_decide_eq_false (Bool.eq_false_iff.mpr hu)]

theorem mem_runnable {s : State} {a : Nat} :
    a ∈ runnable s ↔ ∃ ag, s.agent[a]? = some ag ∧ ag.pc.k < ag.prog.length := by
  rw [runnable, mem_unfinishedFrom]
  constructor
  · rintro ⟨n, ag, hag, hk, rfl⟩
    exact ⟨ag, by rwa [Nat.zero_add], hk⟩
  · rintro ⟨ag, hag, hk⟩
    exact ⟨a, ag, hag, hk, (Nat.zero_add a).symm⟩

/-- The choice is one of the list, at a position the number gives, and there is none in an empty list only. -/
theorem pick_eq (n : Nat) (as : List Nat) : pick n as = as[n % as.length]? := by
  match as with
  | [] => rfl
  | [a] => simp [pick, Nat.mod_one]
  | a :: b :: rest =>
    have hlt : n % (a :: b :: rest).length < (a :: b :: rest).length := Nat.mod_lt _ (Nat.succ_pos _)
    rw [pick, List.getD_eq_getElem?_getD, List.getElem?_eq_getElem hlt, Option.getD_some]

theorem pick_mem {n a : Nat} {as : List Nat} (h : pick n as = some a) : a ∈ as :=
  List.mem_of_getElem? (pick_eq n as ▸ h)

theorem pick_none {n : Nat} {as : List Nat} : pick n as = none ↔ as = [] := by
  match as with
  | [] => exact ⟨fun _ => rfl, fun _ => rfl⟩
  | [a] => exact ⟨nofun, nofun⟩
  | a :: b :: rest => exact ⟨nofun, nofun⟩

/-- Every member of the list is the choice for its own position. -/
theorem exists_pick {a : Nat} {as : List Nat} (h : a ∈ as) : ∃ n, pick n as = some a := by
  obtain ⟨n, hn⟩ := List.mem_iff_getElem?.mp h
  have hlt := (List.getElem?_eq_some_iff.mp hn).1
  exact ⟨n, by rw [pick_eq, Nat.mod_eq_of_lt hlt, hn]⟩

/-- Settles O9: the choice is a member of the list of unfinished agents, and each member is the choice for its position. -/
theorem anyUnfinishedAgentMayMove : Obligations.AnyUnfinishedAgentMayMove := by
  intro s
  refine ⟨fun a ha => mem_runnable.mp (pick_mem ha), ?_,
    fun a ag hag hk => exists_pick (mem_runnable.mpr ⟨ag, hag, hk⟩)⟩
  rw [chooseAgent, pick_none, List.eq_nil_iff_forall_not_mem]
  constructor
  · intro h ag hag
    obtain ⟨a, ha⟩ := List.mem_iff_getElem?.mp hag
    exact Nat.le_of_not_lt fun hk => h a (mem_runnable.mpr ⟨ag, ha, hk⟩)
  · intro h a ha
    obtain ⟨ag, hag, hk⟩ := mem_runnable.mp ha
    exact absurd hk (Nat.not_lt.mpr (h ag (List.mem_of_getElem? hag)))

end Sys2Proof.Machine
end

section
/-! An operation reads and writes its own controller only (R47): with other controllers in the other places, every shared
operation does the same. -/

namespace Sys2Proof.Machine

/-- The controllers `others`, but with controller `c` of `cs` in its place. -/
def graftCtrl (c : Nat) (others cs : List Ctrl) : List Ctrl :=
  match cs[c]? with
  | some ctl => others.set c ctl
  | none => others

theorem graftCtrl_some {c : Nat} {cs : List Ctrl} {ctl : Ctrl} (hc : cs[c]? = some ctl) (others : List Ctrl) :
    graftCtrl c others cs = others.set c ctl := by simp only [graftCtrl, hc]

theorem graftCtrl_none {c : Nat} {cs : List Ctrl} (hc : cs[c]? = none) (others : List Ctrl) :
    graftCtrl c others cs = others := by simp only [graftCtrl, hc]

/-- Where `others` has controller `c` in its place already, there is nothing to put there. -/
theorem graftCtrl_self {c : Nat} {others cs : List Ctrl} (h : others[c]? = cs[c]?) : graftCtrl c others cs = others := by
  cases hc : cs[c]? with
  | none => exact graftCtrl_none hc others
  | some ctl => rw [graftCtrl_some hc, set_getElem?_self (h.trans hc)]

theorem graftCtrl_ne {c d : Nat} (hd : d ≠ c) (others cs : List Ctrl) : (graftCtrl c others cs)[d]? = others[d]? := by
  cases hc : cs[c]? with
  | none => rw [graftCtrl_none hc]
  | some ctl => rw [graftCtrl_some hc, List.getElem?_set_ne hd.symm]

/-- The controller put in its place is found there. -/
theorem graftCtrl_same {c : Nat} {others cs : List Ctrl} (h : others.length ≤ c ↔ cs.length ≤ c) :
    (graftCtrl c others cs)[c]? = cs[c]? := by
  cases hc : cs[c]? with
  | none => rw [graftCtrl_none hc, List.getElem?_eq_none_iff, h, ← List.getElem?_eq_none_iff, hc]
  | some ctl =>
    have hlt := (List.getElem?_eq_some_iff.mp hc).1
    rw [graftCtrl_some hc, List.getElem?_set_self (by omega)]

/-- The state `s` with `others` for its controllers, but for controller `c`, which stays. -/
def graft (c : Nat) (others : List Ctrl) (s : State) : State := { s with ctrl := graftCtrl c others s.ctrl }

@[simp] theorem graft_ctrl (c : Nat) (others : List Ctrl) (s : State) :
    (graft c others s).ctrl = graftCtrl c others s.ctrl := rfl

@[simp] theorem graft_par (c : Nat) (others : List Ctrl) (s : State) : (graft c others s).par = s.par := rfl

/-- Writing controller `c` writes the one that was put in its place. -/
theorem setCtrl_graft {c : Nat} {s : State} (hc : c < s.ctrl.length) (ctl : Ctrl) (others : List Ctrl) :
    setCtrl c ctl (graft c others s) = graft c others (setCtrl c ctl s) := by
  have hset : (graftCtrl c others s.ctrl).set c ctl = graftCtrl c others (s.ctrl.set c ctl) := by
    rw [graftCtrl_some (List.getElem?_eq_getElem hc), graftCtrl_some (List.getElem?_set_self hc), List.set_set]
  simp only [setCtrl, graft, hset]

/-- What a read returns does not depend on any controller (R160, R171). -/
theorem readValue_graft (c : Nat) (others : List Ctrl) (P : Port) (s : State) :
    readValue P (graft c others s) = ((readValue P s).1, graft c others (readValue P s).2) := by
  cases P with
  | wo P => simp only [readValue, graft_par]; cases s.par.woRead <;> rfl
  | level => rfl

section
variable {c : Nat} {others : List Ctrl} {s : State} (h : others.length ≤ c ↔ s.ctrl.length ≤ c)
include h

theorem busWrite_graft (P : WritePort) (v : Word) :
    busWrite c P v (graft c others s) = (busWrite c P v s).map (graft c others) := by
  simp only [busWrite, graft_ctrl, graft_par, graftCtrl_same h]
  cases hc : s.ctrl[c]? with
  | none => rfl
  | some ctl =>
    simp only [setCtrl_graft (List.getElem?_eq_some_iff.mp hc).1]
    split
    · rfl
    · split <;> rfl

theorem busRead_graft (P : Port) :
    busRead c P (graft c others s) = (busRead c P s).map fun x => (x.1, graft c others x.2) := by
  simp only [busRead, graft_ctrl, graftCtrl_same h, readValue_graft]
  cases s.ctrl[c]? with
  | none => rfl
  | some ctl => cases hk : ctl.clkEn <;> simp only [hk] <;> rfl

theorem clockOn_graft : clockOn c (graft c others s) = (clockOn c s).map (graft c others) := by
  simp only [clockOn, graft_ctrl, graftCtrl_same h]
  cases hc : s.ctrl[c]? with
  | none => rfl
  | some ctl =>
    simp only [setCtrl_graft (List.getElem?_eq_some_iff.mp hc).1]
    rfl

/-- One micro-step, with other controllers in the other places (R190). -/
theorem micro_graft (m : MicroOp) : micro c m (graft c others s) = (micro c m s).map (graft c others) := by
  cases m with
  | wr P v => exact busWrite_graft h P v
  | wro P k =>
    have htmp : curTmp (graft c others s) = curTmp s := rfl
    simp only [micro, htmp]
    cases curTmp s with
    | none => rfl
    | some x => exact busWrite_graft (s := setTmp none s) h P (x ||| k)
  | rd P => simp only [micro, busRead_graft h]; cases busRead c (.wo P) s <;> rfl
  | rdl k => simp only [micro, busRead_graft h]; cases busRead c .level s <;> rfl
  | rdRet P => simp only [micro, busRead_graft h]; cases busRead c P s <;> rfl
  | clk => exact clockOn_graft h

/-- The entry checks read the operation's own controller only (R198). -/
theorem entryCheck_graft (i : Instr) (ws : List Word) : entryCheck i c ws (graft c others s) = entryCheck i c ws s := by
  simp only [entryCheck, graft_ctrl, graft_par, graftCtrl_same h]
  rfl

theorem issueStep_graft {check : State → Option Stop} (hcheck : check (graft c others s) = check s) (ms : List MicroOp) :
    issueStep check c ms (graft c others s) = (issueStep check c ms s).map (graft c others) := by
  have hag : curAgent (graft c others s) = curAgent s := rfl
  simp only [issueStep, hcheck, micro_graft h, hag]
  cases curAgent s with
  | none => rfl
  | some ag =>
    simp only
    cases ms[ag.pc.j]? with
    | none => rfl
    | some m =>
      simp only
      cases (if ag.pc.j = 0 then check s else none) with
      | some e => rfl
      | none => cases micro c m s <;> rfl

end

/-- In a running machine an instruction is its issued micro-step, concluded (R190, R233). -/
theorem exec_of_running {s : State} (hr : s.running) (i : Instr) :
    exec i s = conclude s (issueStep (checkOf i) i.ctrlIndex (expand s.par i) s) := by
  rw [exec_eq_issue, issue, haltedBy_none.mpr hr]

/-- With other controllers in the other places an instruction does the same (R47). -/
theorem exec_graft {i : Instr} {others : List Ctrl} {s t : State}
    (hl : others.length ≤ i.ctrlIndex ↔ s.ctrl.length ≤ i.ctrlIndex) (h : exec i s = .next t) :
    exec i (graft i.ctrlIndex others s) = .next (graft i.ctrlIndex others t) := by
  have hr := exec_running h
  have hcheck : checkOf i (graft i.ctrlIndex others s) = checkOf i s := by
    rcases checkOf_eq i with hc | hc <;> rw [hc]
    · exact entryCheck_graft hl i _
    · rfl
  rw [exec_of_running (s := graft i.ctrlIndex others s) hr, graft_par, issueStep_graft hl hcheck]
  rw [exec_of_running hr] at h
  rcases conclude_next h with hx | ⟨r, info, hx, rfl⟩ | ⟨r, hx, rfl⟩ <;> rw [hx] <;> rfl

/-- An instruction leaves every controller but the one it names, and their number (R47). -/
theorem exec_ctrl {i : Instr} {s t : State} (h : exec i s = .next t) :
    t.ctrl.length = s.ctrl.length ∧ ∀ c, c ≠ i.ctrlIndex → t.ctrl[c]? = s.ctrl[c]? := by
  obtain ⟨-, ag, m, -, -, ⟨r, info, rfl⟩ | ⟨r, rfl⟩ | ⟨_, _, _, _, _, -, -, -, -, rfl⟩⟩ := exec_next h
  · exact ⟨rfl, fun _ _ => rfl⟩
  · exact ⟨rfl, fun _ _ => rfl⟩
  · exact ⟨List.length_set, fun c hc => List.getElem?_set_ne hc.symm⟩

/-- Settles O32: an instruction changes one controller, and it commutes with replacing the others. -/
theorem oneControllerOnly : Obligations.OneControllerOnly := by
  intro i s t h
  obtain ⟨hlen, hne⟩ := exec_ctrl h
  refine ⟨hne, fun others hothers => ?_⟩
  have hl : others.length ≤ i.ctrlIndex ↔ s.ctrl.length ≤ i.ctrlIndex := by
    rw [← List.getElem?_eq_none_iff, hothers, List.getElem?_eq_none_iff]
  have hg := exec_graft hl h
  rw [graft, graftCtrl_self hothers] at hg
  exact ⟨_, hg, graftCtrl_same (by rw [hl, hlen]), fun c hc => graftCtrl_ne hc others t.ctrl⟩

end Sys2Proof.Machine
end

section
/-! What a step does to the agents (R31, R33, R34): the position moves to its successor, `ret` and `tmp` belong to the
operations that write them. -/

namespace Sys2Proof.Machine

/-- Settles O38: a completed micro-step advances its agent and keeps its program, and a mark leaves every agent. -/
theorem positionMovesToItsSuccessor : Obligations.PositionMovesToItsSuccessor := by
  intro s t a i ag hag hf h
  rw [stepOf_eq (stepOf_running h) hf] at h
  obtain ⟨hr, ag₀, m, hag₀, -, ⟨r, info, rfl⟩ | ⟨r, rfl⟩ | ⟨_, _, ag', _, _, -, -, hac, -, rfl⟩⟩ := exec_next h
  · exact ⟨ag, hag, rfl, fun ht => absurd ht (State.faulted_not_running _ r info), fun _ => rfl, fun _ _ => rfl⟩
  · exact ⟨ag, hag, rfl, fun ht => absurd ht (State.refusedFor_not_running _ r), fun _ => rfl, fun _ _ => rfl⟩
  · obtain rfl : ag₀ = ag := Option.some.inj (hag₀.symm.trans hag)
    have hlt := (List.getElem?_eq_some_iff.mp hag).1
    exact ⟨_, List.getElem?_set_self hlt, hac.prog_pc.1, fun _ => rfl, fun ht => absurd hr ht,
      fun b hb => List.getElem?_set_ne hb.symm⟩

/-- Replacing an entry by one with the same value of `f` leaves the values of `f`. -/
theorem map_set_of_eq {α β : Type} {f : α → β} {l : List α} {n : Nat} {x y : α} (hx : l[n]? = some x)
    (hf : f y = f x) :
    (l.set n y).map f = l.map f := by
  rw [List.map_set, hf, set_getElem?_self (by rw [List.getElem?_map, hx]; rfl)]

/-- What no micro-step of an instruction changes in an agent, but for the position, the instruction leaves in all agents. -/
theorem exec_agent_map {β : Type} {f : Agent → β} {i : Instr} {s t : State} (h : exec i s = .next t)
    (hf : ∀ ag m ag' pc, m ∈ expand s.par i → AgentChange ag m ag' → f { ag' with pc := pc } = f ag) :
    t.agent.map f = s.agent.map f := by
  obtain ⟨-, ag, m, hag, hm, ⟨r, info, rfl⟩ | ⟨r, rfl⟩ | ⟨_, _, ag', _, _, -, -, hac, -, rfl⟩⟩ := exec_next h
  · rfl
  · rfl
  · exact map_set_of_eq hag (hf ag m ag' _ (List.mem_of_getElem? hm) hac)

/-! ### The result -/

/-- The micro-step returns a result (R34, R190). -/
def MicroOp.setsRet : MicroOp → Bool
  | .rdl _ | .rdRet _ => true
  | _ => false

/-- Only the bus reads and `GET_LEVEL` have a micro-step that returns a result (R160 to R171, R197). -/
theorem expand_setsRet {i : Instr} (hread : ∀ P c, i ≠ readInstr P c) (hlevel : ∀ c mask, i ≠ .getLevel c mask)
    (p : Params) : (expand p i).all (fun m => !m.setsRet) = true := by
  cases i with
  | rOset c => exact absurd rfl (hread (.wo .oset) c)
  | rOclr c => exact absurd rfl (hread (.wo .oclr) c)
  | rPuen c => exact absurd rfl (hread (.wo .puen) c)
  | rPudis c => exact absurd rfl (hread (.wo .pudis) c)
  | rFen c => exact absurd rfl (hread (.wo .fen) c)
  | rFdis c => exact absurd rfl (hread (.wo .fdis) c)
  | rPen c => exact absurd rfl (hread (.wo .pen) c)
  | rDen c => exact absurd rfl (hread (.wo .den) c)
  | rMden c => exact absurd rfl (hread (.wo .mden) c)
  | rMddis c => exact absurd rfl (hread (.wo .mddis) c)
  | rLevel c => exact absurd rfl (hread .level c)
  | getLevel c mask => exact absurd rfl (hlevel c mask)
  | cfgPullup c mask enable => cases enable <;> rfl
  | cfgInput c mask attrs =>
    simp only [expand, expandCfgInput]
    split <;> split <;> rfl
  | cfgOutput c mask level md pu => cases md <;> cases pu <;> rfl
  | _ => rfl

theorem AgentChange.ret_eq {ag ag' : Agent} {m : MicroOp} (h : AgentChange ag m ag') (hm : m.setsRet = false) :
    ag'.ret = ag.ret := by
  cases h with
  | rdl | rdRet => cases hm
  | _ => rfl

theorem exec_ret {i : Instr} {s t : State} (h : exec i s = .next t) (hread : ∀ P c, i ≠ readInstr P c)
    (hlevel : ∀ c mask, i ≠ .getLevel c mask) : t.agent.map Agent.ret = s.agent.map Agent.ret :=
  exec_agent_map h fun _ m _ _ hm hac => by
    have hret := List.all_eq_true.mp (expand_setsRet hread hlevel s.par) m hm
    exact hac.ret_eq (by simpa using hret)

/-- The observation of a result is the result, or a fault where there is none (R34). -/
theorem observeRet_eq {s : State} {a : Nat} {ag : Agent} (hag : s.agent[a]? = some ag) :
    (ag.ret = none → observeRet a s = .fault .noResult) ∧ ∀ v, ag.ret = some v → observeRet a s = .next v :=
  ⟨fun hret => by simp [observeRet, hag, hret], fun v hret => by simp [observeRet, hag, hret]⟩

/-- Settles O39: no micro-step of another operation sets `ret`, the observation is `ret`, and a reset agent has none. -/
theorem resultIsWrittenByReadsOnly : Obligations.ResultIsWrittenByReadsOnly :=
  ⟨fun _ _ _ => exec_ret, fun _ _ _ => observeRet_eq, fun _ _ hag => congrArg Agent.ret (List.eq_of_mem_replicate hag)⟩

/-! ### `tmp` -/

/-- Only `CFG_OUTPUT` has micro-steps that set or take `tmp` (R33, R195). -/
theorem expand_leaves_tmp {i : Instr} (hi : ∀ c mask level md pu, i ≠ .cfgOutput c mask level md pu) (p : Params) :
    (expand p i).all (fun m => !m.usesTmp && !m.setsTmp) = true := by
  cases i with
  | cfgOutput c mask level md pu => exact absurd rfl (hi c mask level md pu)
  | cfgPullup c mask enable => cases enable <;> rfl
  | cfgInput c mask attrs =>
    simp only [expand, expandCfgInput]
    split <;> split <;> rfl
  | _ => rfl

theorem AgentChange.tmp_eq {ag ag' : Agent} {m : MicroOp} (h : AgentChange ag m ag') (hu : m.usesTmp = false)
    (hs : m.setsTmp = false) : ag'.tmp = ag.tmp := by
  cases h with
  | wro => cases hu
  | rd => cases hs
  | _ => rfl

theorem exec_tmp {i : Instr} {s t : State} (h : exec i s = .next t)
    (hi : ∀ c mask level md pu, i ≠ .cfgOutput c mask level md pu) : t.agent.map Agent.tmp = s.agent.map Agent.tmp :=
  exec_agent_map h fun _ m _ _ hm hac => by
    have htmp := List.all_eq_true.mp (expand_leaves_tmp hi s.par) m hm
    rw [Bool.and_eq_true, Bool.not_eq_true', Bool.not_eq_true'] at htmp
    exact hac.tmp_eq htmp.1 htmp.2

/-- The "OR into" writes of `CFG_OUTPUT` are its micro-steps 1, 3 and 6 (R195). -/
theorem expandCfgOutput_wro (mask level : Word) (md pu : Bool) {j : Nat} (hj : j ∈ [1, 3, 6]) :
    ∃ P, (expandCfgOutput mask level md pu)[j]? = some (.wro P mask) := by
  simp only [List.mem_cons, List.not_mem_nil, or_false] at hj
  rcases hj with rfl | rfl | rfl <;> cases md <;> exact ⟨_, rfl⟩

/-- Micro-steps 4 and 7 of `CFG_OUTPUT` are plain writes (R195). -/
theorem expandCfgOutput_wr (mask level : Word) (md pu : Bool) {j : Nat} (hj : j ∈ [4, 7]) :
    ∃ P v, (expandCfgOutput mask level md pu)[j]? = some (.wr P v) := by
  simp only [List.mem_cons, List.not_mem_nil, or_false] at hj
  rcases hj with rfl | rfl <;> cases md <;> cases pu <;> exact ⟨_, _, rfl⟩

/-- Settles O40: no micro-step of another operation sets or takes `tmp`, and of `CFG_OUTPUT` micro-steps 1, 3 and 6 take it
and 4 and 7 are plain writes. -/
theorem tmpBelongsToConfigureAsOutput : Obligations.TmpBelongsToConfigureAsOutput := by
  refine ⟨fun _ _ _ => exec_tmp, fun c mask level md pu s t ag ag' h ht hag hag' => ?_⟩
  obtain ⟨ag₀, m, s', hag₀, hm, hmic, rfl⟩ := exec_completed h ht
  obtain rfl : ag₀ = ag := Option.some.inj (hag₀.symm.trans hag)
  constructor
  · intro hj
    obtain ⟨P, hP⟩ := expandCfgOutput_wro mask level md pu hj
    obtain rfl : m = .wro P mask := Option.some.inj (hm.symm.trans hP)
    obtain ⟨_, x, hx, -, -, rfl⟩ := micro_wro_ok.mp hmic
    rw [curTmp_eq hag] at hx
    have htmp := congrArg (Option.map Agent.tmp) hag'
    exact ⟨by simp [hx], by simpa [hag, eq_comm] using htmp⟩
  · intro hj
    obtain ⟨P, v, hP⟩ := expandCfgOutput_wr mask level md pu hj
    obtain rfl : m = .wr P v := Option.some.inj (hm.symm.trans hP)
    obtain ⟨_, -, -, rfl⟩ := micro_wr_ok.mp hmic
    have htmp := congrArg (Option.map Agent.tmp) hag'
    simpa [hag, eq_comm] using htmp

end Sys2Proof.Machine
end

section
/-! What a pad shows (R43 to R45), and the level of an input, which is latched and shows when the pin becomes an output
(R37). -/

namespace Sys2Proof.Machine

theorem padDrive_of_unowned {ctl : Ctrl} {n : Nat} (h : ctl.pioEn.testBit n = false) : padDrive ctl n = .unowned := by
  simp [padDrive, h]

theorem padDrive_of_input {ctl : Ctrl} {n : Nat} (hp : ctl.pioEn.testBit n = true) (ho : ctl.outEn.testBit n = false) :
    padDrive ctl n = .released := by
  simp [padDrive, hp, ho]

/-- The last rows of R44 are `outputDrive`. -/
theorem padDrive_of_output {ctl : Ctrl} {n : Nat} (hp : ctl.pioEn.testBit n = true) (ho : ctl.outEn.testBit n = true) :
    padDrive ctl n = outputDrive (ctl.outData.testBit n) (ctl.mdEn.testBit n) := by
  cases hd : ctl.outData.testBit n <;> cases hm : ctl.mdEn.testBit n <;> simp [padDrive, outputDrive, hp, ho, hd, hm]

/-- Settles O49: a pin without the controller, an input, and the three rows of an output. -/
theorem padDriveTable : Obligations.PadDriveTable := fun _ _ =>
  ⟨padDrive_of_unowned, padDrive_of_input,
    fun hp ho hd => by rw [padDrive_of_output hp ho, hd]; rfl,
    fun hp ho hm hd => by rw [padDrive_of_output hp ho, hd, hm]; rfl,
    fun hp ho hm hd => by rw [padDrive_of_output hp ho, hd, hm]; rfl⟩

/-- The pad of an existing pin is the record of its controller (R43). -/
theorem pad_of_lt {s : State} {c i : Nat} {ctl : Ctrl} (hc : s.ctrl[c]? = some ctl) (hi : i < s.par.nPins) :
    pad s c i = some (ctrlPad ctl i) := by
  simp [pad, hc, hi]

theorem pad_of_le {s : State} {c i : Nat} (hi : s.par.nPins ≤ i) : pad s c i = none := by
  simp [pad, Nat.not_lt.mpr hi]

/-- Settles O50: the pad of an existing pin is `ctrlPad`, whose pull and filter are the two bits. -/
theorem padPullAndFilter : Obligations.PadPullAndFilter := fun _ _ _ _ hc =>
  ⟨fun hi => ⟨_, pad_of_lt hc hi, rfl, Iff.rfl, Iff.rfl⟩, pad_of_le⟩

/-! ### The latch -/

@[simp] theorem expand_writeInstr (p : Params) (P : WritePort) (c : Nat) (v : Word) :
    expand p (writeInstr P c v) = [.wr P v] := by
  cases P <;> rfl

@[simp] theorem writeInstr_ctrlIndex (P : WritePort) (c : Nat) (v : Word) : (writeInstr P c v).ctrlIndex = c := by
  cases P <;> rfl

/-- A bus write without a mark writes its controller (R130). -/
theorem exec_write_ctrl {P : WritePort} {c : Nat} {v : Word} {s t : State} {ctl ctl' : Ctrl}
    (h : exec (writeInstr P c v) s = .next t) (ht : t.running) (hc : s.ctrl[c]? = some ctl) (hc' : t.ctrl[c]? = some ctl') :
    ctl' = ctl.written P v := by
  obtain ⟨ag, m, s', -, hm, hmic, rfl⟩ := exec_completed h ht
  rw [expand_writeInstr] at hm
  obtain rfl : m = .wr P v := List.mem_singleton.mp (List.mem_of_getElem? hm)
  rw [writeInstr_ctrlIndex] at hmic
  obtain ⟨ctl₀, ⟨hc₀, -⟩, -, rfl⟩ := micro_wr_ok.mp hmic
  obtain rfl : ctl₀ = ctl := Option.some.inj (hc₀.symm.trans hc)
  have hlt := (List.getElem?_eq_some_iff.mp hc).1
  simpa [hlt, eq_comm] using hc'

/-- A write of the output level changes the latched level and its port's log (R130, R131, R132). -/
theorem Ctrl.written_level {P : WritePort} (hP : P = .oset ∨ P = .oclr) (ctl : Ctrl) (v : Word) :
    ctl.written P v =
      { ctl with outData := applyKind (portKind P) ctl.outData v, last := ctl.last.put P v } := by
  rcases hP with rfl | rfl <;> rfl

/-- The pad of an input does not show the latched level (R37, R44). -/
theorem ctrlPad_written_level {P : WritePort} (hP : P = .oset ∨ P = .oclr) {ctl : Ctrl} {n : Nat}
    (hn : ctl.outEn.testBit n = false) (v : Word) : ctrlPad (ctl.written P v) n = ctrlPad ctl n := by
  simp [Ctrl.written_level hP, ctrlPad, padDrive, hn]

/-- The latched level is set or cleared at the data of the write (R131, R132). -/
theorem written_level_testBit {P : WritePort} (hP : P = .oset ∨ P = .oclr) (ctl : Ctrl) (v : Word) (n : Nat) :
    (ctl.written P v).outData.testBit n = if v.testBit n then decide (P = .oset) else ctl.outData.testBit n := by
  rw [Ctrl.written_level hP]
  rcases hP with rfl | rfl <;> cases hv : v.testBit n <;> simp [applyKind, portKind, hv]

/-- A write to `DEN` makes the pins of its data outputs (R138). -/
theorem written_den_outEn {w : Word} {n : Nat} (hw : w.testBit n = true) (ctl : Ctrl) :
    (ctl.written .den w).outEn.testBit n = true := by
  have hout : (ctl.written .den w).outEn = ctl.outEn ||| w := rfl
  simp [hout, hw]

/-- Settles O51: the pad of an input shows no level, a write to `DEN` keeps every field but the direction, and an output
shows its latched level. -/
theorem levelOfAnInputIsLatched : Obligations.LevelOfAnInputIsLatched := by
  intro P c n v w s t u ctl ctl' ctl'' hP h ht hc hc' hn
  obtain rfl := exec_write_ctrl h ht hc hc'
  refine ⟨?_, written_level_testBit hP ctl v n, fun hu hur hc'' hw => ?_⟩
  · simp [pad, exec_par h, hc, hc', ctrlPad_written_level hP hn]
  · obtain rfl := exec_write_ctrl (P := .den) hu hur hc' hc''
    refine ⟨rfl, ?_⟩
    have hout := written_den_outEn hw (ctl.written P v)
    rw [Ctrl.written_level hP] at hout ⊢
    cases hp : ctl.pioEn.testBit n with
    | false => exact padDrive_of_unowned hp
    | true => exact padDrive_of_output hp hout

end Sys2Proof.Machine
end

section
/-! Accesses and fetches by address that reach no port are refused, each by its reason (R72 to R74, R85). -/

namespace Sys2Proof.Machine

/-- No block is found exactly where the address is outside every one (R72). -/
theorem blockFrom_eq_none {size addr start : Nat} {bases : List Nat} :
    blockFrom size addr start bases = none ↔ ∀ b ∈ bases, addr < b ∨ b + size ≤ addr := by
  induction bases generalizing start with
  | nil => simp [blockFrom]
  | cons b bs ih =>
    rw [blockFrom, List.forall_mem_cons]
    split
    · next hin =>
      have hout : ¬ (addr < b ∨ b + size ≤ addr) := by omega
      simp [hout]
    · next hout =>
      have hb : addr < b ∨ b + size ≤ addr := by omega
      simp [hb, ih]

/-- An address belongs to no controller exactly where it is outside the block of each (R72). -/
theorem blockOf_eq_none {p : Params} {addr : Nat} :
    blockOf p addr = none ↔ ∀ c base : Nat, p.ctrlBase[c]? = some base → addr < base ∨ base + p.blockSize ≤ addr := by
  rw [blockOf, blockFrom_eq_none]
  constructor
  · exact fun h c base hc => h base (List.mem_of_getElem? hc)
  · intro h b hb
    obtain ⟨c, hc⟩ := List.mem_iff_getElem?.mp hb
    exact h c b hc

/-! ### Instruction fetches -/

/-- In a running machine an instruction fetch records its refusal (R85, R233). -/
theorem memFetchStep_of_running {s : State} (hr : s.running) (addr : Nat) :
    memFetchStep addr s = .next (s.refusedFor (memFetch addr s)) := by
  rw [memFetchStep, haltedBy_none.mpr hr]
  rfl

/-- Settles O54: an address inside a block is found in some block, and one outside every block in none. -/
theorem instructionFetchIsRefused : Obligations.InstructionFetchIsRefused := by
  intro s addr hr
  rw [memFetchStep_of_running hr, memFetch]
  constructor
  · intro c base hc hle hlt
    cases hb : blockOf s.par addr with
    | some x => rfl
    | none =>
      have hout := blockOf_eq_none.mp hb c base hc
      omega
  · intro hout
    rw [blockOf_eq_none.mpr hout]

/-! ### Accesses by address -/

/-- In a running machine a write by address is `MemWrite`, concluded (R16, R233). -/
theorem memWriteStep_of_running {s : State} (hr : s.running) (addr bytes : Nat) (v : Word) :
    memWriteStep addr bytes v s = conclude s (memWrite addr bytes v s) := by
  rw [memWriteStep, haltedBy_none.mpr hr]

/-- In a running machine a read by address that stops concludes with its stop (R16, R233). -/
theorem memReadStep_of_error {s : State} (hr : s.running) {addr bytes : Nat} {e : Stop}
    (h : memRead addr bytes s = .error e) : memReadStep addr bytes s = conclude s (.error e) := by
  rw [memReadStep, haltedBy_none.mpr hr, h]

/-- An address that decodes to no port refuses the write and the read there by its reason (R72 to R74, R233). -/
theorem access_of_address_refused {s : State} (hr : s.running) {addr bytes : Nat} {r : RefusalReason}
    (h : busAddress s.par addr bytes = .error r) (v : Word) :
    memWriteStep addr bytes v s = .next (s.refusedFor r) ∧ memReadStep addr bytes s = .next (s.refusedFor r) := by
  have hwrite : memWrite addr bytes v s = .error (.refuse r) := by rw [memWrite, h]
  have hread : memRead addr bytes s = .error (.refuse r) := by rw [memRead, h]
  rw [memWriteStep_of_running hr, hwrite, memReadStep_of_error hr hread]
  exact ⟨rfl, rfl⟩

/-- The level port takes no write by address (R74, R109). -/
theorem memWriteStep_level {s : State} (hr : s.running) {addr bytes c : Nat}
    (h : busAddress s.par addr bytes = .ok (c, .level)) (v : Word) :
    memWriteStep addr bytes v s = .next (s.refusedFor .readOnlyPort) := by
  rw [memWriteStep_of_running hr, memWrite, h]
  rfl

/-- Settles O53: outside every block the address decodes to none, inside one to its offset, where the size, the alignment
and the ports decide in that order. -/
theorem otherAccessesAreRefused : Obligations.OtherAccessesAreRefused := by
  intro s addr bytes v hp hr
  refine ⟨fun hout => access_of_address_refused hr ?_ v, ?_⟩
  · rw [busAddress, blockOf_eq_none.mpr hout]
  rintro c base off hc rfl hoff
  have hblock := blockOf_base_add hp hc hoff
  refine ⟨fun hw => access_of_address_refused hr ?_ v, fun hw hal => access_of_address_refused hr ?_ v,
    fun hw hal hport => access_of_address_refused hr ?_ v, ?_⟩
  · simp [busAddress, hblock, hw]
  · simp [busAddress, hblock, hw, hal]
  · simp [busAddress, hblock, hw, hal, portAt_none hport]
  · rintro hw rfl
    exact memWriteStep_level hr (busAddress_port hp hc hw .level) v

end Sys2Proof.Machine
end

section
/-! An access to a controller whose clock is not enabled faults, whatever issued it (R88, R231). -/

namespace Sys2Proof.Machine

@[simp] theorem expand_readInstr (p : Params) (P : Port) (c : Nat) : expand p (readInstr P c) = [.rdRet P] := by
  cases P with
  | level => rfl
  | wo P => cases P <;> rfl

@[simp] theorem readInstr_ctrlIndex (P : Port) (c : Nat) : (readInstr P c).ctrlIndex = c := by
  cases P with
  | level => rfl
  | wo P => cases P <;> rfl

/-- A bus read has no entry check of its own (R160). -/
theorem checkOf_readInstr (P : Port) (c : Nat) : checkOf (readInstr P c) = noEntryCheck := by
  cases P with
  | level => rfl
  | wo P => cases P <;> rfl

/-- A bus write has no entry check of its own (R130). -/
theorem checkOf_writeInstr (P : WritePort) (c : Nat) (v : Word) : checkOf (writeInstr P c v) = noEntryCheck := by
  cases P <;> rfl

/-- What an access to port `P` of controller `c` records where the clock is not enabled, issued by the agent at `pc` (R231). -/
def clockFault (s : State) (pc : Pos) (c : Nat) (P : Port) (value : Option Word) : FaultInfo :=
  { agent := s.cur, pc := pc, c := c, subject := .port P, value := value }

section
variable {s : State} {ag : Agent} {c : Nat} {ctl : Ctrl} (hag : s.agent[s.cur]? = some ag) (hc : s.ctrl[c]? = some ctl)
  (hoff : ctl.clkEn = false)
include hag hc hoff

theorem busWrite_clockOff (P : WritePort) (v : Word) :
    busWrite c P v s = .error (.fault .clockNotEnabled (clockFault s ag.pc c (.wo P) (some v))) := by
  simp [busWrite, hc, hoff, faultInfo, curPos_eq hag, clockFault]

theorem busRead_clockOff (P : Port) :
    busRead c P s = .error (.fault .clockNotEnabled (clockFault s ag.pc c P none)) := by
  simp [busRead, hc, hoff, faultInfo, curPos_eq hag, clockFault]

end

/-- A bus write instruction stops as its write does (R130). -/
theorem exec_writeInstr_stops {s : State} {ag : Agent} {P : WritePort} {c : Nat} {v : Word} {e : Stop}
    (hs : s.standsAt ag 0) (h : busWrite c P v s = .error e) : exec (writeInstr P c v) s = conclude s (.error e) := by
  refine exec_stops (m := .wr P v) hs (by rw [expand_writeInstr]; rfl) (fun _ => by rw [checkOf_writeInstr]; rfl) ?_
  rwa [writeInstr_ctrlIndex]

/-- A bus read instruction stops as its read does (R160). -/
theorem exec_readInstr_stops {s : State} {ag : Agent} {P : Port} {c : Nat} {e : Stop}
    (hs : s.standsAt ag 0) (h : busRead c P s = .error e) : exec (readInstr P c) s = conclude s (.error e) := by
  refine exec_stops (m := .rdRet P) hs (by rw [expand_readInstr]; rfl) (fun _ => by rw [checkOf_readInstr]; rfl) ?_
  rw [readInstr_ctrlIndex, micro, h]

/-- Settles O22: the bus access stops with the clock fault, and an instruction and an access by address end as it does. -/
theorem accessWithoutClockFaults : Obligations.AccessWithoutClockFaults := by
  intro c
  refine ⟨fun P data s ag ctl hs hc hoff => ?_, fun P s ag ctl hs hc hoff => ?_,
    fun addr bytes P s ag ctl hr hag hc hoff haddr => ⟨?_, ?_⟩⟩
  · have ⟨_, hag, _⟩ := hs
    exact exec_writeInstr_stops hs (busWrite_clockOff hag hc hoff P data)
  · have ⟨_, hag, _⟩ := hs
    exact exec_readInstr_stops hs (busRead_clockOff hag hc hoff P)
  · have hread := busRead_clockOff hag hc hoff P
    exact memReadStep_of_error hr (by rw [memRead, haddr]; exact hread)
  · rintro Q data rfl
    rw [memWriteStep_of_running hr, memWrite, haddr]
    exact congrArg (conclude s) (busWrite_clockOff hag hc hoff Q data)

end Sys2Proof.Machine
end

section
/-! A read changes no controller (R80): it logs itself, may count a draw, and writes `ret` or `tmp` of its reader. -/

namespace Sys2Proof.Machine

/-- A completed bus read changes the trace and the count of draws only (R160, R171). -/
theorem busRead_state {c : Nat} {P : Port} {s s' : State} {r : Word} (h : busRead c P s = .ok (r, s')) :
    s' = { s with trace := s.trace ++ [.read s.cur c P r], draws := drawsAfter P s } := by
  obtain ⟨-, -, rfl⟩ := busRead_ok.mp h
  rw [readValue_eq]
  rfl

/-! ### Instructions -/

/-- An instruction leaves every agent but the issuing one (R31). -/
theorem exec_otherAgents {i : Instr} {s t : State} (h : exec i s = .next t) {a : Nat} (ha : a ≠ s.cur) :
    t.agent[a]? = s.agent[a]? := by
  obtain ⟨-, ag, m, -, -, ⟨r, info, rfl⟩ | ⟨r, rfl⟩ | ⟨_, _, _, _, _, -, -, -, -, rfl⟩⟩ := exec_next h
  · rfl
  · rfl
  · exact List.getElem?_set_ne ha.symm

/-- The port a micro-step reads, if it is a read (R190). -/
def MicroOp.readPort : MicroOp → Option Port
  | .rd P => some (.wo P)
  | .rdl _ => some .level
  | .rdRet P => some P
  | .wr _ _ | .wro _ _ | .clk => none

/-- A completed read leaves the controllers and logs itself (R80, R190). -/
theorem micro_read {c : Nat} {m : MicroOp} {P : Port} {s s' : State} (hP : m.readPort = some P)
    (h : micro c m s = .ok s') : s'.ctrl = s.ctrl ∧ ∃ v, s'.trace = s.trace ++ [.read s.cur c P v] := by
  cases m with
  | rd Q =>
    obtain rfl := Option.some.inj hP
    obtain ⟨-, rfl⟩ := micro_rd_ok.mp h
    rw [readValue_eq]
    exact ⟨rfl, _, rfl⟩
  | rdl k =>
    obtain rfl := Option.some.inj hP
    obtain ⟨-, rfl⟩ := micro_rdl_ok.mp h
    rw [readValue_eq]
    exact ⟨rfl, _, rfl⟩
  | rdRet Q =>
    obtain rfl := Option.some.inj hP
    obtain ⟨-, rfl⟩ := micro_rdRet_ok.mp h
    rw [readValue_eq]
    exact ⟨rfl, _, rfl⟩
  | wr | wro | clk => cases hP

/-- An instruction that stands at a read leaves the controllers, the programs and the other agents, and logs that read or
nothing (R80, R233). -/
theorem exec_read {i : Instr} {P : Port} {s t : State} (h : exec i s = .next t)
    (hP : ∀ ag m, s.agent[s.cur]? = some ag → (expand s.par i)[ag.pc.j]? = some m → m.readPort = some P) :
    t.ctrl = s.ctrl ∧ t.agent.map Agent.prog = s.agent.map Agent.prog ∧
    (∀ a, a ≠ s.cur → t.agent[a]? = s.agent[a]?) ∧
    (t.trace = s.trace ∨ ∃ v, t.trace = s.trace ++ [.read s.cur i.ctrlIndex P v]) := by
  have hprog : t.agent.map Agent.prog = s.agent.map Agent.prog := exec_agent_map h fun _ _ _ _ _ hac => hac.prog_pc.1
  rcases exec_accessed h with ⟨ht, -⟩ | ⟨-, hctrl, htrace⟩
  · obtain ⟨ag, m, s', hag, hm, hmic, rfl⟩ := exec_completed h ht
    obtain ⟨hctrl, hv⟩ := micro_read (hP ag m hag hm) hmic
    exact ⟨hctrl, hprog, fun _ => exec_otherAgents h, .inr hv⟩
  · exact ⟨hctrl, hprog, fun _ => exec_otherAgents h, .inl htrace⟩

theorem readInstr_ne_cfgOutput (P : Port) (c c' : Nat) (mask level : Word) (md pu : Bool) :
    readInstr P c ≠ .cfgOutput c' mask level md pu := by
  cases P with
  | level => exact nofun
  | wo P => cases P <;> exact nofun

/-- The reads of the "OR into" pairs of `CFG_OUTPUT` are its micro-steps 0, 2 and 5 (R195). -/
theorem expandCfgOutput_rd (mask level : Word) (md pu : Bool) {j : Nat} (hj : j ∈ [0, 2, 5]) :
    ∃ P, orPort md j = some P ∧ (expandCfgOutput mask level md pu)[j]? = some (.rd P) := by
  simp only [List.mem_cons, List.not_mem_nil, or_false] at hj
  rcases hj with rfl | rfl | rfl <;> cases md <;> exact ⟨_, rfl, rfl⟩

/-! ### Accesses by address -/

/-- Writing `ret` leaves in all agents what does not depend on `ret` (R34). -/
theorem setRet_agent_map {β : Type} {f : Agent → β} (hf : ∀ ag v, f { ag with ret := some v } = f ag) (v : Word)
    (s : State) : (setRet v s).agent.map f = s.agent.map f := by
  cases hag : s.agent[s.cur]? with
  | none => rw [setRet_agent, List.modify_eq_self (List.getElem?_eq_none_iff.mp hag)]
  | some ag =>
    rw [setRet, updAgent_eq hag]
    exact map_set_of_eq hag (hf ag v)

/-- Settles O21: each of the four kinds of read is one bus read, which leaves the controllers and logs itself, and of its
agent it writes `ret`, or `tmp` in an "OR into" pair. -/
theorem readsChangeNoController : Obligations.ReadsChangeNoController := by
  refine ⟨fun P c s t h => ?_, fun c mask s t h => ?_, fun c mask level md pu ag s t h hag hj => ?_,
    fun addr bytes s t h => ?_⟩
  · have hframe := exec_read (P := P) h fun ag m _ hm => by
      rw [expand_readInstr] at hm
      obtain rfl := List.mem_singleton.mp (List.mem_of_getElem? hm)
      rfl
    rw [readInstr_ctrlIndex] at hframe
    obtain ⟨hctrl, hframe⟩ := hframe
    exact ⟨hctrl, exec_tmp h (readInstr_ne_cfgOutput P c), hframe⟩
  · obtain ⟨hctrl, hframe⟩ := exec_read (P := .level) h fun ag m _ hm => by
      obtain rfl := List.mem_singleton.mp (List.mem_of_getElem? hm)
      rfl
    exact ⟨hctrl, exec_tmp h nofun, hframe⟩
  · obtain ⟨P, hor, hrd⟩ := expandCfgOutput_rd mask level md pu hj
    obtain ⟨hctrl, hprog, hothers, htrace⟩ := exec_read (P := .wo P) h fun ag₀ m hag₀ hm => by
      obtain rfl : ag₀ = ag := Option.some.inj (hag₀.symm.trans hag)
      obtain rfl : m = .rd P := Option.some.inj (hm.symm.trans hrd)
      rfl
    have hret := exec_ret h (fun Q d => (readInstr_ne_cfgOutput Q d c mask level md pu).symm) nofun
    exact ⟨hctrl, hret, hprog, hothers, htrace.imp id fun ⟨v, hv⟩ => ⟨P, v, hor, hv⟩⟩
  · obtain ⟨-, ⟨r, info, rfl⟩ | ⟨r, rfl⟩ | ⟨r, s', hm, rfl⟩⟩ := memReadStep_next h
    · exact ⟨rfl, rfl, rfl, fun _ _ => rfl, .inl rfl⟩
    · exact ⟨rfl, rfl, rfl, fun _ _ => rfl, .inl rfl⟩
    · obtain ⟨c, P, -, hread⟩ := memRead_ok hm
      obtain rfl := busRead_state hread
      exact ⟨rfl, setRet_agent_map (fun _ _ => rfl) r _, setRet_agent_map (fun _ _ => rfl) r _,
        fun _ ha => List.getElem?_modify_ne _ _ ha.symm, .inr ⟨c, P, r, rfl⟩⟩

end Sys2Proof.Machine
end

section
/-! Decoding and encoding (R104 to R111): the equations of the decoder, one per check of R111, that it reads every operation
back from its own selector and from no other, and the reasons it refuses the rest with (R109, R110). -/

namespace Sys2Proof

/-! ### The decoder, check by check (R111) -/

section
variable {m : RegOffsets} {sel : Sel}

/-- A zero top bit marks the bus accesses: the class is neither 11 nor 10 (R104). -/
theorem topBit_eq_zero_iff :
    sel.extractLsb' 15 1 = 0#1 ↔ sel.extractLsb' 14 2 ≠ 0b11#2 ∧ sel.extractLsb' 14 2 ≠ 0b10#2 := by
  have := sel.isLt
  simp only [ne_eq, ← BitVec.toNat_inj, BitVec.extractLsb'_toNat, BitVec.toNat_ofNat, Nat.shiftRight_eq_div_pow]
  omega

theorem decodeSel_class11 (hcls : sel.extractLsb' 14 2 = 0b11#2) : decodeSel m sel = .error .reservedSelector := by
  simp [decodeSel, hcls]

theorem decodeSel_call_reserved (hcls : sel.extractLsb' 14 2 = 0b10#2) (hres : sel.extractLsb' 8 6 ≠ 0#6) :
    decodeSel m sel = .error .reservedSelector := by
  simp [decodeSel, hcls, hres]

theorem decodeSel_call (hcls : sel.extractLsb' 14 2 = 0b10#2) (hres : sel.extractLsb' 8 6 = 0#6) :
    decodeSel m sel = decodeCall (sel.extractLsb' 0 8) := by
  simp [decodeSel, hcls, hres]

section
variable (htop : sel.extractLsb' 15 1 = 0#1)
include htop

theorem decodeSel_bus_reserved (hres : sel.extractLsb' 12 2 ≠ 0#2) : decodeSel m sel = .error .reservedSelector := by
  simp [decodeSel, topBit_eq_zero_iff.mp htop, hres]

theorem decodeSel_bus_misaligned (hres : sel.extractLsb' 12 2 = 0#2) (hlow : sel.extractLsb' 0 2 ≠ 0#2) :
    decodeSel m sel = .error .misaligned := by
  simp [decodeSel, topBit_eq_zero_iff.mp htop, hres, hlow]

theorem decodeSel_bus_unmapped (hres : sel.extractLsb' 12 2 = 0#2) (hlow : sel.extractLsb' 0 2 = 0#2)
    (hport : portAt m (sel.extractLsb' 0 12).toNat = none) : decodeSel m sel = .error .unmappedOffset := by
  simp [decodeSel, topBit_eq_zero_iff.mp htop, hres, hlow, hport, -BitVec.extractLsb'_toNat]

end

section
variable (hres : sel.extractLsb' 12 2 = 0#2) (hlow : sel.extractLsb' 0 2 = 0#2)
include hres hlow

theorem decodeSel_read {P : Port} (hcls : sel.extractLsb' 14 2 = 0b00#2)
    (hport : portAt m (sel.extractLsb' 0 12).toNat = some P) : decodeSel m sel = .ok (.br P) := by
  simp [decodeSel, hcls, hres, hlow, hport, -BitVec.extractLsb'_toNat]

theorem decodeSel_write {P : WritePort} (hcls : sel.extractLsb' 14 2 = 0b01#2)
    (hport : portAt m (sel.extractLsb' 0 12).toNat = some (.wo P)) : decodeSel m sel = .ok (.bw P) := by
  simp [decodeSel, hcls, hres, hlow, hport, -BitVec.extractLsb'_toNat]

theorem decodeSel_write_level (hcls : sel.extractLsb' 14 2 = 0b01#2)
    (hport : portAt m (sel.extractLsb' 0 12).toNat = some .level) : decodeSel m sel = .error .readOnlyPort := by
  simp [decodeSel, hcls, hres, hlow, hport, -BitVec.extractLsb'_toNat]

end

/-- Everything a selector that decodes can be: a call with a zero reserved field, or an access to the port at its offset that
reads it or, where it is a write port, writes it (R104, R111). -/
theorem decodeSel_ok {oc : OpCode} (h : decodeSel m sel = .ok oc) :
    (sel.extractLsb' 14 2 = 0b10#2 ∧ sel.extractLsb' 8 6 = 0#6 ∧ decodeCall (sel.extractLsb' 0 8) = .ok oc) ∨
      sel.extractLsb' 12 2 = 0#2 ∧
        ((∃ P, sel.extractLsb' 14 2 = 0b00#2 ∧ portAt m (sel.extractLsb' 0 12).toNat = some P ∧ oc = .br P) ∨
          ∃ P, sel.extractLsb' 14 2 = 0b01#2 ∧ portAt m (sel.extractLsb' 0 12).toNat = some (.wo P) ∧ oc = .bw P) := by
  by_cases h11 : sel.extractLsb' 14 2 = 0b11#2
  · cases (decodeSel_class11 h11).symm.trans h
  by_cases h10 : sel.extractLsb' 14 2 = 0b10#2
  · by_cases hres : sel.extractLsb' 8 6 = 0#6
    · exact .inl ⟨h10, hres, (decodeSel_call h10 hres).symm.trans h⟩
    · cases (decodeSel_call_reserved h10 hres).symm.trans h
  have htop := topBit_eq_zero_iff.mpr ⟨h11, h10⟩
  by_cases hres : sel.extractLsb' 12 2 = 0#2
  case neg => cases (decodeSel_bus_reserved htop hres).symm.trans h
  by_cases hlow : sel.extractLsb' 0 2 = 0#2
  case neg => cases (decodeSel_bus_misaligned htop hres hlow).symm.trans h
  refine .inr ⟨hres, ?_⟩
  cases hport : portAt m (sel.extractLsb' 0 12).toNat with
  | none => cases (decodeSel_bus_unmapped htop hres hlow hport).symm.trans h
  | some P =>
    by_cases h00 : sel.extractLsb' 14 2 = 0b00#2
    · cases (decodeSel_read hres hlow h00 hport).symm.trans h
      exact .inl ⟨P, h00, rfl, rfl⟩
    · have h01 : sel.extractLsb' 14 2 = 0b01#2 := by bv_omega
      cases P with
      | level => cases (decodeSel_write_level hres hlow h01 hport).symm.trans h
      | wo P =>
        cases (decodeSel_write hres hlow h01 hport).symm.trans h
        exact .inr ⟨P, h01, rfl, rfl⟩

/-- A selector as a number, from its class, its reserved field and its offset (R104). -/
theorem toNat_busFields (sel : Sel) :
    sel.toNat = 0x4000 * (sel.extractLsb' 14 2).toNat + 0x1000 * (sel.extractLsb' 12 2).toNat
      + (sel.extractLsb' 0 12).toNat := by
  have := sel.isLt
  simp only [BitVec.extractLsb'_toNat, Nat.shiftRight_eq_div_pow]
  omega

/-- A selector as a number, from its class, the reserved field of a call and the call's id (R104, R107). -/
theorem toNat_callFields (sel : Sel) :
    sel.toNat = 0x4000 * (sel.extractLsb' 14 2).toNat + 0x100 * (sel.extractLsb' 8 6).toNat
      + (sel.extractLsb' 0 8).toNat := by
  have := sel.isLt
  simp only [BitVec.extractLsb'_toNat, Nat.shiftRight_eq_div_pow]
  omega

end

/-! ### The call identifiers (R107) -/

/-- An id that decodes is the low byte of its call's selector (R107). -/
theorem decodeCall_ok {id : BitVec 8} {oc : OpCode} (h : decodeCall id = .ok oc) (m : RegOffsets) :
    (selectorOf m oc).toNat = 0x8000 + id.toNat := by
  unfold decodeCall at h
  repeat' split at h
  all_goals cases h
  all_goals
    subst id
    rfl

/-- An id that is none of the seven is refused (R110). -/
theorem decodeCall_unlisted {id : BitVec 8} (h : id ∉ [0x00#8, 0x01#8, 0x02#8, 0x03#8, 0x04#8, 0x05#8, 0x10#8]) :
    decodeCall id = .error .reservedSelector := by
  simp only [List.mem_cons, List.not_mem_nil, or_false, not_or] at h
  simp [decodeCall, h]

/-! ### Decoding and selectors -/

/-- The selector of a bus read is the offset of its port (R105). -/
theorem selectorOf_br_toNat (m : RegOffsets) (P : Port) : (selectorOf m (.br P)).toNat = (portOffset m P).toNat := by
  rw [selectorOf, BitVec.toNat_setWidth, Nat.mod_eq_of_lt (by omega)]

/-- A port is found at an offset that is its own (R103). -/
theorem portAt_of_eq {m : RegOffsets} {P : Port} {off : Offset} (hm : m.wf = true) (h : off = portOffset m P) :
    portAt m off.toNat = some P := h ▸ portAt_self hm P

/-- At offsets that meet R103 the selector of every operation decodes to it (R104, R105, R107). -/
theorem decodeSel_selectorOf {m : RegOffsets} (hm : m.wf = true) (oc : OpCode) :
    decodeSel m (selectorOf m oc) = .ok oc := by
  cases oc with
  | br P =>
    obtain ⟨hcls, hres, hoff, hlow⟩ := readSelector_fields (portOffset m P)
    exact decodeSel_read hres (hlow.trans (portOffset_aligned hm P)) hcls (portAt_of_eq hm hoff)
  | bw P =>
    obtain ⟨hcls, hres, hoff, hlow⟩ := writeSelector_fields (portOffset m (.wo P))
    exact decodeSel_write hres (hlow.trans (portOffset_aligned hm _)) hcls (portAt_of_eq hm hoff)
  | _ => simp [selectorOf, decodeSel_call, decodeCall]

/-- A selector that decodes is the one of its operation (R104, R105, R107). -/
theorem selectorOf_of_decodeSel {m : RegOffsets} {sel : Sel} {oc : OpCode} (h : decodeSel m sel = .ok oc) :
    selectorOf m oc = sel := by
  apply BitVec.eq_of_toNat_eq
  rcases decodeSel_ok h with ⟨hcls, hres, hcall⟩ | ⟨hres, ⟨P, hcls, hport, rfl⟩ | ⟨P, hcls, hport, rfl⟩⟩
  · rw [decodeCall_ok hcall, toNat_callFields sel, hcls, hres]
    rfl
  · rw [selectorOf_br_toNat, portAt_some hport, toNat_busFields sel, hcls, hres]
    simp
  · rw [selectorOf, writeSelector_toNat, portAt_some hport, toNat_busFields sel, hcls, hres]
    rfl

/-- Taking an instruction apart into operation and operands and assembling it again gives it back: no operand is dropped
(R106, R108). -/
theorem opCode_withOperands (i : Instr) : i.opCode.withOperands i.operands = i := by
  cases i <;> rfl

/-- Settles O2: the selector decodes to the instruction's operation, which takes its operands back from the record. -/
theorem decodeOfEncodeIsTheInstruction : Obligations.DecodeOfEncodeIsTheInstruction := by
  intro m i hm
  rw [decode, encode, decodeSel_selectorOf hm i.opCode]
  exact congrArg Except.ok (opCode_withOperands i)

/-- Settles O3: the fields that the decoder checks make up the operation's own selector. -/
theorem decodedSelectorIsTheOperationsOwn : Obligations.DecodedSelectorIsTheOperationsOwn :=
  fun _ _ _ => selectorOf_of_decodeSel

/-- Settles O1, by running the decoder. -/
theorem tableSelectorsDecode : Obligations.TableSelectorsDecode := by
  unfold Obligations.TableSelectorsDecode
  decide

/-- Settles O5: the offset of the level port names that port, which no selector of class 01 can write. -/
theorem levelPortWriteIsRefused : Obligations.LevelPortWriteIsRefused := by
  refine ⟨fun m hm => ?_, by decide⟩
  obtain ⟨hcls, hres, hoff, hlow⟩ := writeSelector_fields m.level
  exact decodeSel_write_level hres (hlow.trans (portOffset_aligned hm .level)) hcls (portAt_of_eq (P := .level) hm hoff)

/-! ### Refusals -/

theorem decodeSel_unlisted {m : RegOffsets} {sel : Sel} (h : ∀ oc, selectorOf m oc ≠ sel) :
    ∃ r, decodeSel m sel = .error r := by
  cases hd : decodeSel m sel with
  | ok oc => exact absurd (selectorOf_of_decodeSel hd) (h oc)
  | error r => exact ⟨r, rfl⟩

namespace Machine

/-- A step at an operation that the decoder refuses records the reason (R233, R234). -/
theorem stepOf_decode_refused {s : State} {a : Nat} {ag : Agent} {op : Op} {r : RefusalReason} (hr : s.running)
    (hag : s.agent[a]? = some ag) (hop : ag.prog[ag.pc.k]? = some op) (hd : decodeSel s.par.regOffset op.sel = .error r) :
    stepOf a s = .next ((issueTo a s).refusedFor r) := by
  have hfetch : fetch (issueTo a s) = .error (.refuse r) := by simp [fetch, curAgent, hag, hop, decode, hd]
  simp [stepOf, haltedBy_none.mpr hr, hfetch, conclude, State.refusedFor]

/-- Settles O4: each clause is one check of the decoder, and a selector that passed them all would be an operation's. -/
theorem unlistedSelectorsAreRefused : Obligations.UnlistedSelectorsAreRefused := by
  intro m sel
  refine ⟨decodeSel_unlisted, decodeSel_class11, decodeSel_bus_reserved, decodeSel_bus_misaligned,
    fun htop hres hlow hoff => ?_, fun hcls hcall => ?_, fun s a ag o hr hm hag hop hsel => ?_⟩
  · have hport : portAt m (sel.extractLsb' 0 12).toNat = none := portAt_none fun P => mt BitVec.eq_of_toNat_eq (hoff P)
    exact decodeSel_bus_unmapped htop hres hlow hport
  · by_cases hres : sel.extractLsb' 8 6 = 0#6
    · rw [decodeSel_call hcls hres]
      exact decodeCall_unlisted (hcall.resolve_left (not_not.mpr hres))
    · exact decodeSel_call_reserved hcls hres
  · subst hm
    obtain ⟨r, hd⟩ := decodeSel_unlisted hsel
    exact ⟨r, hd, stepOf_decode_refused hr hag hop hd⟩

end Machine
end Sys2Proof
end

section
/-! An operation on a controller that does not exist is refused (R106, R198): by the first entry check, or by its first
micro-step. -/

namespace Sys2Proof.Machine

section
variable {c : Nat} {s : State} (hc : s.ctrl[c]? = none)
include hc

theorem busWrite_noController (P : WritePort) (v : Word) : busWrite c P v s = .error (.refuse .noSuchController) := by
  simp [busWrite, hc]

theorem busRead_noController (P : Port) : busRead c P s = .error (.refuse .noSuchController) := by
  simp [busRead, hc]

/-- A micro-step that needs no `tmp` is refused where its controller does not exist (R130, R160, R196). -/
theorem micro_noController {m : MicroOp} (hm : m.usesTmp = false) : micro c m s = .error (.refuse .noSuchController) := by
  cases m with
  | wr P v => exact busWrite_noController hc P v
  | wro P k => cases hm
  | clk => simp [micro, clockOn, hc]
  | rd | rdl | rdRet => simp [micro, busRead_noController hc]

theorem entryCheck_noController (i : Instr) (ws : List Word) :
    entryCheck i c ws s = some (.refuse .noSuchController) := by
  simp [entryCheck, hc]

end

/-- Every operation on a controller that does not exist is refused at its micro-step 0 (R106, R198). -/
theorem exec_noController {i : Instr} {s : State} {ag : Agent} (hs : s.standsAt ag 0)
    (hc : s.ctrl[i.ctrlIndex]? = none) : exec i s = .next (s.refusedFor .noSuchController) := by
  obtain ⟨m, hm, htmp⟩ := expand_zero s.par i
  rcases checkOf_eq i with hchk | hchk
  · exact exec_check_stops hs hm (hchk ▸ entryCheck_noController hc i i.pinWords)
  · exact exec_stops hs hm (fun _ => hchk ▸ rfl) (micro_noController hc htmp)

/-- Settles O23: the invariant gives the machine `N_CTRL` controllers, so an index not below `N_CTRL` names none. -/
theorem missingControllerIsRefused : Obligations.MissingControllerIsRefused := by
  intro i s ag hinv hs hi
  obtain ⟨-, hlen, -⟩ := State.inv_iff.mp hinv
  exact exec_noController hs (List.getElem?_eq_none_iff.mpr (hlen ▸ hi))

end Sys2Proof.Machine
end

section
/-! The ten bus writes (R130 to R140): how their selectors decode, their exact next state, their two faults, and everything
they can do, from which their frame follows. -/

namespace Sys2Proof

/-- The selector of a bus write, with any operands, decodes to the write of its port (R105, R106). -/
theorem decode_writeSelector {m : RegOffsets} (hm : m.wf = true) (P : WritePort) (o : Operands) :
    decode m { sel := 0x4000#16 ||| (portOffset m (.wo P)).setWidth 16, operands := o }
      = .ok (writeInstr P o.c o.data) := by
  have hsel : decodeSel m (0x4000#16 ||| (portOffset m (.wo P)).setWidth 16) = .ok (.bw P) :=
    decodeSel_selectorOf hm (.bw P)
  rw [decode, hsel]
  rfl

namespace Machine

/-- The next state of a bus write whose clock is enabled and whose data names existing pins (R130). -/
theorem exec_writeInstr {s : State} {ag : Agent} {c : Nat} {ctl : Ctrl} {v : Word} (P : WritePort)
    (hs : s.standsAt ag 0) (hc : s.clocked c ctl) (hv : pinsExist s.par v) :
    exec (writeInstr P c v) s
      = .next (s.after c (ctl.written P v) { ag with pc := ag.pc.nextOp } [.write s.cur c P v]) := by
  have h := exec_wr (i := writeInstr P c v) (P := P) (ctl := ctl) hs (by rw [expand_writeInstr]; rfl)
    (fun _ => by rw [checkOf_writeInstr]; rfl) (by rwa [writeInstr_ctrlIndex]) hv
  rwa [writeInstr_ctrlIndex, expand_writeInstr, List.length_singleton, Pos.succ_one] at h

theorem busWrite_outOfRange {s : State} {ag : Agent} {c : Nat} {ctl : Ctrl} {v : Word}
    (hag : s.agent[s.cur]? = some ag) (hc : s.clocked c ctl) (hv : ¬ pinsExist s.par v) (P : WritePort) :
    busWrite c P v s = .error (.fault .maskOutOfRange
      { agent := s.cur, pc := ag.pc, c := c, subject := .port (.wo P), value := some v }) := by
  obtain ⟨hc, hon⟩ := hc
  simp [busWrite, hc, hon, outOfRange_true.mpr hv, faultInfo, curPos_eq hag]

/-- A bus write instruction faults as its write does: on the clock first, then on the data (R130, R236). -/
theorem writeFaults_writeInstr (P : WritePort) (c : Nat) (v : Word) : WriteFaults (writeInstr P c v) c P v := by
  intro s ag ctl hs hc
  have ⟨_, hag, _⟩ := hs
  exact ⟨fun hoff => exec_writeInstr_stops hs (busWrite_clockOff hag hc hoff P v),
    fun hon hv => exec_writeInstr_stops hs (busWrite_outOfRange hag ⟨hc, hon⟩ hv P)⟩

/-- The rules of the two ports `P` and `Q`, in the form in which R131 to R140 pair the ports. -/
theorem writePair_rules (P Q : WritePort) (c : Nat) (v : Word) :
    (∀ (m : RegOffsets) (o : Operands), m.wf = true →
      decode m { sel := 0x4000#16 ||| (portOffset m (.wo P)).setWidth 16, operands := { o with c := c, data := v } }
        = .ok (writeInstr P c v) ∧
      decode m { sel := 0x4000#16 ||| (portOffset m (.wo Q)).setWidth 16, operands := { o with c := c, data := v } }
        = .ok (writeInstr Q c v)) ∧
    (∀ (s : State) (ag : Agent) (ctl : Ctrl), s.standsAt ag 0 → s.clocked c ctl → pinsExist s.par v →
      exec (writeInstr P c v) s
        = .next (s.after c (ctl.written P v) { ag with pc := ag.pc.nextOp } [.write s.cur c P v]) ∧
      exec (writeInstr Q c v) s
        = .next (s.after c (ctl.written Q v) { ag with pc := ag.pc.nextOp } [.write s.cur c Q v])) ∧
    WriteFaults (writeInstr P c v) c P v ∧ WriteFaults (writeInstr Q c v) c Q v :=
  ⟨fun _ _ hm => ⟨decode_writeSelector hm P _, decode_writeSelector hm Q _⟩,
    fun _ _ _ hs hc hv => ⟨exec_writeInstr P hs hc hv, exec_writeInstr Q hs hc hv⟩,
    writeFaults_writeInstr P c v, writeFaults_writeInstr Q c v⟩

/-- Settles O13: the rules of `OSET` and `OCLR`, whose field is `out_data` (R101). -/
theorem outputSetAndClearWrites : Obligations.OutputSetAndClearWrites := writePair_rules .oset .oclr

/-- Settles O14: the rules of `PUEN` and `PUDIS`, whose field is `pu_en` (R101). -/
theorem pullUpEnableAndDisableWrites : Obligations.PullUpEnableAndDisableWrites := writePair_rules .puen .pudis

/-- Settles O15: the rules of `FEN` and `FDIS`, whose field is `filt_en` (R101). -/
theorem filterEnableAndDisableWrites : Obligations.FilterEnableAndDisableWrites := writePair_rules .fen .fdis

/-- Settles O16: the rules of `PEN` and `DEN`, two set ports, whose fields are `pio_en` and `out_en` (R101). -/
theorem pinAndDirectionEnableWrites : Obligations.PinAndDirectionEnableWrites := writePair_rules .pen .den

/-- Settles O17: the rules of `MDEN` and `MDDIS`, whose field is `md_en` (R101). -/
theorem multidriveEnableAndDisableWrites : Obligations.MultidriveEnableAndDisableWrites := writePair_rules .mden .mddis

/-! ### What a bus write leaves unchanged -/

/-- An instruction that answers a marked state changed nothing but the marks (R233). -/
theorem exec_marked {i : Instr} {s t : State} (h : exec i s = .next t) (ht : ¬ t.running) :
    ∃ f r, t = { s with fault := f, refused := r } := by
  obtain ⟨hr, ag, m, -, -, ⟨r, info, rfl⟩ | ⟨r, rfl⟩ | ⟨_, _, _, _, _, -, -, -, -, rfl⟩⟩ := exec_next h
  · exact ⟨_, _, rfl⟩
  · exact ⟨_, _, rfl⟩
  · exact absurd hr ht

/-- A bus write that answers a state without a mark completed (R130). -/
theorem exec_writeInstr_completed {P : WritePort} {c : Nat} {v : Word} {s t : State}
    (h : exec (writeInstr P c v) s = .next t) (ht : t.running) :
    ∃ ag ctl, s.standsAt ag 0 ∧ s.clocked c ctl ∧
      t = s.after c (ctl.written P v) { ag with pc := ag.pc.nextOp } [.write s.cur c P v] := by
  obtain ⟨ag, m, s', hag, hm, hmic, -⟩ := exec_completed h ht
  rw [expand_writeInstr, List.getElem?_singleton] at hm
  obtain ⟨hj, hm⟩ := Option.ite_none_right_eq_some.mp hm
  obtain rfl := Option.some.inj hm
  rw [writeInstr_ctrlIndex] at hmic
  obtain ⟨ctl, hc, hv, -⟩ := micro_wr_ok.mp hmic
  have hs : s.standsAt ag 0 := ⟨exec_running h, hag, hj⟩
  exact ⟨ag, ctl, hs, hc, Host.Outcome.next.inj (h.symm.trans (exec_writeInstr P hs hc hv))⟩

/-- Setting or clearing decides the bits of the data and leaves the others (R102). -/
theorem applyKind_testBit (k : PortKind) (f v : Word) (n : Nat) :
    (applyKind k f v).testBit n = if v.testBit n then decide (k = .set) else f.testBit n := by
  cases k <;> cases hv : v.testBit n <;> simp [applyKind, hv]

/-- A write leaves in every status field the bits that are 0 in its data (R130, R141). -/
theorem Ctrl.written_field_testBit {v : Word} {n : Nat} (hv : v.testBit n = false) (ctl : Ctrl) (P : WritePort)
    (F : StatusField) : ((ctl.written P v).field F).testBit n = (ctl.field F).testBit n := by
  rw [Ctrl.written_field]
  split
  · simp [applyKind_testBit, hv]
  · rfl

/-- Settles O18: a marked state differs from `s` in the marks only, and a completed write is `Ctrl.written` on one
controller, whose frame its field and port log laws give. -/
theorem busWriteFrame : Obligations.BusWriteFrame := by
  intro P c data s t h
  by_cases ht : t.running
  · obtain ⟨hlen, hothers⟩ := exec_ctrl h
    rw [writeInstr_ctrlIndex] at hothers
    obtain ⟨ag, ctl, hs, -, rfl⟩ := exec_writeInstr_completed h ht
    refine ⟨rfl, rfl, rfl, hlen, hothers, fun ctl ctl' hc hc' => ?_, fun _ => exec_otherAgents h,
      fun ag₀ ag' hag hag' => ?_⟩
    · obtain rfl := exec_write_ctrl h ht hc hc'
      refine ⟨ctl.written_clkEn P data, fun F hF => ?_, fun n hn => Ctrl.written_field_testBit hn ctl P _, fun Q hQ => ?_⟩
      · rw [Ctrl.written_field, if_neg hF.symm]
      · rw [Ctrl.written_last, PortLog.get_put, if_neg hQ.symm]
    · obtain ⟨-, hag₀, -⟩ := hs
      obtain rfl : ag = ag₀ := Option.some.inj (hag₀.symm.trans hag)
      obtain rfl : { ag with pc := ag.pc.nextOp } = ag' := by
        simpa [(List.getElem?_eq_some_iff.mp hag).1] using hag'
      exact ⟨rfl, rfl, rfl⟩
  · obtain ⟨f, r, rfl⟩ := exec_marked h ht
    refine ⟨rfl, rfl, rfl, rfl, fun _ _ => rfl, fun ctl ctl' hc hc' => ?_, fun _ _ => rfl, fun ag ag' hag hag' => ?_⟩
    · obtain rfl : ctl = ctl' := Option.some.inj (hc.symm.trans hc')
      exact ⟨rfl, fun _ _ => rfl, fun _ _ => rfl, fun _ _ => rfl⟩
    · obtain rfl : ag = ag' := Option.some.inj (hag.symm.trans hag')
      exact ⟨rfl, rfl, rfl⟩

end Machine
end Sys2Proof
end

section
/-! The laws of two bus writes to one controller (R141). A write is `applyKind` on its port's field, so each law is one about
two such operations on a word, in the one order and in the other. -/

namespace Sys2Proof.Machine

/-! ### Two writes on one word -/

/-- Words are disjoint where no bit is in both. -/
theorem and_eq_zero_iff_testBit {v u : Word} : v &&& u = 0 ↔ ∀ n, v.testBit n = true → u.testBit n = false := by
  constructor
  · intro h n hv
    have hn : (v.testBit n && u.testBit n) = false := by rw [← Nat.testBit_and, h, Nat.zero_testBit]
    simpa [hv] using hn
  · intro h
    apply Nat.eq_of_testBit_eq
    intro n
    cases hv : v.testBit n with
    | false => simp [hv]
    | true => simp [h n hv]

/-- The same operation again changes nothing more. -/
theorem applyKind_idem (k : PortKind) (f v : Word) : applyKind k (applyKind k f v) v = applyKind k f v := by
  apply Nat.eq_of_testBit_eq
  intro n
  cases hv : v.testBit n <;> simp [applyKind_testBit, hv]

/-- Two operations of one kind commute. -/
theorem applyKind_comm (k : PortKind) (f v u : Word) :
    applyKind k (applyKind k f v) u = applyKind k (applyKind k f u) v := by
  apply Nat.eq_of_testBit_eq
  intro n
  cases hv : v.testBit n <;> simp [applyKind_testBit, hv]

/-- A set and a clear commute exactly where their data are disjoint: on a common bit the last one decides. -/
theorem applyKind_comm_iff {k l : PortKind} (hkl : k ≠ l) (f v u : Word) :
    applyKind l (applyKind k f v) u = applyKind k (applyKind l f u) v ↔ v &&& u = 0 := by
  rw [and_eq_zero_iff_testBit]
  constructor
  · intro h n hv
    have hbit := congrArg (Nat.testBit · n) h
    cases hu : u.testBit n with
    | false => rfl
    | true => cases k <;> cases l <;> simp [applyKind_testBit, hv, hu] at hkl hbit
  · intro h
    apply Nat.eq_of_testBit_eq
    intro n
    cases hv : v.testBit n with
    | false => simp [applyKind_testBit, hv]
    | true => simp [applyKind_testBit, hv, h n hv]

theorem applyKind_clear_and (f u : Word) : applyKind .clear f u &&& u = 0 :=
  and_eq_zero_iff_testBit.mpr fun n hn => by
    cases hu : u.testBit n with
    | false => rfl
    | true => simp [applyKind_testBit, hu] at hn

theorem applyKind_set_and (f u : Word) : applyKind .set f u &&& u = u := by
  apply Nat.eq_of_testBit_eq
  intro n
  cases hu : u.testBit n <;> simp [applyKind_testBit, hu]

/-- A clear of disjoint bits leaves the bits that are set. -/
theorem applyKind_clear_set_and {v u : Word} (h : v &&& u = 0) (f : Word) :
    applyKind .clear (applyKind .set f v) u &&& v = v := by
  rw [(applyKind_comm_iff (by decide) f v u).mpr h]
  exact applyKind_set_and _ v

/-! ### Two writes of one controller -/

theorem Ctrl.written_written_self (ctl : Ctrl) (P : WritePort) (v : Word) :
    (ctl.written P v).written P v = ctl.written P v := by
  refine Ctrl.ext_fields (fun F => ?_) (fun Q => ?_) (by simp)
  · simp only [Ctrl.written_field]
    split
    · exact applyKind_idem _ _ v
    · rfl
  · simp only [Ctrl.written_last, PortLog.get_put]
    split <;> rfl

/-- Two writes of one status field, one after the other. -/
theorem Ctrl.written_written_field {P Q : WritePort} (hPQ : portField P = portField Q) (ctl : Ctrl) (v u : Word) :
    ((ctl.written P v).written Q u).field (portField P) =
      applyKind (portKind Q) (applyKind (portKind P) (ctl.field (portField P)) v) u := by
  simp [Ctrl.written_field, hPQ]

/-- A status field that no write of the two governs. -/
theorem Ctrl.written_written_field_of_ne {P Q : WritePort} {F : StatusField} (hP : portField P ≠ F) (hQ : portField Q ≠ F)
    (ctl : Ctrl) (v u : Word) : ((ctl.written P v).written Q u).field F = ctl.field F := by
  simp [Ctrl.written_field, hP, hQ]

/-- Writes of different status fields commute on the fields. -/
theorem Ctrl.written_comm_of_ne {P Q : WritePort} (hPQ : portField P ≠ portField Q) (ctl : Ctrl) (v u : Word)
    (F : StatusField) : ((ctl.written P v).written Q u).field F = ((ctl.written Q u).written P v).field F := by
  by_cases hP : portField P = F
  · have hQ : portField Q ≠ F := fun hQ => hPQ (hP.trans hQ.symm)
    simp [Ctrl.written_field, hP, hQ]
  · simp [Ctrl.written_field, hP]

/-- Writes of one status field commute on the fields exactly where they commute on that field. -/
theorem Ctrl.written_comm_iff {P Q : WritePort} (hPQ : portField P = portField Q) (ctl : Ctrl) (v u : Word) :
    (∀ F, ((ctl.written P v).written Q u).field F = ((ctl.written Q u).written P v).field F) ↔
      applyKind (portKind Q) (applyKind (portKind P) (ctl.field (portField P)) v) u =
        applyKind (portKind P) (applyKind (portKind Q) (ctl.field (portField P)) u) v := by
  have hone := Ctrl.written_written_field hPQ ctl v u
  have hother := Ctrl.written_written_field hPQ.symm ctl u v
  rw [← hPQ] at hother
  rw [← hone, ← hother]
  refine ⟨fun h => h _, fun h F => ?_⟩
  by_cases hF : portField P = F
  · exact hF ▸ h
  · have hF' : portField Q ≠ F := hPQ ▸ hF
    rw [Ctrl.written_written_field_of_ne hF hF', Ctrl.written_written_field_of_ne hF' hF]

/-! ### Two write instructions -/

/-- After a write without a mark the controller it wrote is found. -/
theorem exec_writeInstr_clocked {P : WritePort} {c : Nat} {v : Word} {s t : State}
    (h : exec (writeInstr P c v) s = .next t) (ht : t.running) :
    ∃ ctl, s.clocked c ctl ∧ t.clocked c (ctl.written P v) := by
  obtain ⟨ag, ctl, -, hc, rfl⟩ := exec_writeInstr_completed h ht
  exact ⟨ctl, hc, after_clocked hc ((ctl.written_clkEn P v).trans hc.2)⟩

/-- Two writes without a mark write one controller twice. -/
theorem exec_write_write {P Q : WritePort} {c : Nat} {v u : Word} {s s₁ s₂ : State} {ctl ctl₂ : Ctrl}
    (h₁ : exec (writeInstr P c v) s = .next s₁) (hr₁ : s₁.running) (h₂ : exec (writeInstr Q c u) s₁ = .next s₂)
    (hr₂ : s₂.running) (hc : s.ctrl[c]? = some ctl) (hc₂ : s₂.ctrl[c]? = some ctl₂) :
    ctl₂ = (ctl.written P v).written Q u := by
  obtain ⟨ctl₀, ⟨hc₀, -⟩, hc₁, -⟩ := exec_writeInstr_clocked h₁ hr₁
  obtain rfl : ctl₀ = ctl := Option.some.inj (hc₀.symm.trans hc)
  exact exec_write_ctrl h₂ hr₂ hc₁ hc₂

/-- Settles O43: the bits outside the data by the law of one write, and the second write by `Ctrl.written_written_self`. -/
theorem writeIsLocalAndIdempotent : Obligations.WriteIsLocalAndIdempotent := by
  intro P c v s t h ht
  refine ⟨fun ctl ctl' F n hc hc' hn => ?_, fun u hu hur => ?_⟩
  · obtain rfl := exec_write_ctrl h ht hc hc'
    exact Ctrl.written_field_testBit hn ctl P F
  · obtain ⟨ctl, -, hc, -⟩ := exec_writeInstr_clocked h ht
    obtain ⟨ag, ctl₁, -, ⟨hc₁, -⟩, rfl⟩ := exec_writeInstr_completed hu hur
    obtain rfl : ctl.written P v = ctl₁ := Option.some.inj (hc.symm.trans hc₁)
    rw [State.after_ctrl, Ctrl.written_written_self]
    exact set_getElem?_self hc

/-- Settles O44: the last operation decides the bits of its own data, and clearing disjoint bits comes to the same as
clearing them first. -/
theorem lastWriteWins : Obligations.LastWriteWins := by
  intro P Q c v u s s₁ s₂ ctl ctl₂ hPQ hkind h₁ hr₁ h₂ hr₂ hc hc₂
  obtain rfl := exec_write_write h₁ hr₁ h₂ hr₂ hc hc₂
  rw [Ctrl.written_written_field hPQ]
  refine ⟨fun hQ => ?_, fun hQ => ?_, fun hQ hvu => ?_⟩
  · rw [hQ]
    exact applyKind_clear_and _ u
  · rw [hQ]
    exact applyKind_set_and _ u
  · have hP : portKind P = .set := by
      cases hk : portKind P with
      | set => rfl
      | clear => exact absurd (hk.trans hQ.symm) hkind
    rw [hP, hQ]
    exact ⟨applyKind_clear_set_and hvu _, fun n hv hu => by simp [applyKind_testBit, hv, hu]⟩

/-- Settles O45: both orders write one controller twice, so the fields commute where `applyKind` does on the shared field,
and the port log holds the last data. -/
theorem writeOrderMatters : Obligations.WriteOrderMatters := by
  intro P Q c v u s s₁ s₂ t₁ t₂ a b h₁ hr₁ h₂ hr₂ g₁ gr₁ g₂ gr₂ ha hb
  obtain ⟨ctl, ⟨hc, -⟩, -⟩ := exec_writeInstr_clocked h₁ hr₁
  obtain rfl := exec_write_write h₁ hr₁ h₂ hr₂ hc ha
  obtain rfl := exec_write_write g₁ gr₁ g₂ gr₂ hc hb
  refine ⟨fun hPQ => Ctrl.written_comm_of_ne hPQ ctl v u, fun hPQ hkind => ?_, ?_⟩
  · rw [Ctrl.written_comm_iff hPQ]
    exact applyKind_comm_iff hkind _ v u
  · rintro rfl
    refine ⟨(Ctrl.written_comm_iff rfl ctl v u).mpr (applyKind_comm _ _ v u), ?_⟩
    simp [PortLog.get_put, eq_comm]

end Sys2Proof.Machine
end

section
/-! The eleven bus reads (R160 to R171): how their selectors decode, their exact next state, and their fault. -/

namespace Sys2Proof

/-- The selector of a bus read, with any operands, decodes to the read of its port (R105, R106). -/
theorem decode_readSelector {m : RegOffsets} (hm : m.wf = true) (P : Port) (o : Operands) :
    decode m { sel := (portOffset m P).setWidth 16, operands := o } = .ok (readInstr P o.c) := by
  have hsel : decodeSel m ((portOffset m P).setWidth 16) = .ok (.br P) := decodeSel_selectorOf hm (.br P)
  rw [decode, hsel]
  rfl

namespace Machine

/-- The next state of a bus read whose clock is enabled (R160, R171). -/
theorem exec_readInstr {s : State} {ag : Agent} {c : Nat} {ctl : Ctrl} (P : Port)
    (hs : s.standsAt ag 0) (hc : s.clocked c ctl) :
    exec (readInstr P c) s = .next { s with
      agent := s.agent.set s.cur { ag with ret := some (readWord P s), pc := ag.pc.nextOp },
      trace := s.trace ++ [.read s.cur c P (readWord P s)],
      draws := drawsAfter P s } := by
  have h := exec_rdRet (i := readInstr P c) (P := P) (ctl := ctl) hs (by rw [expand_readInstr]; rfl)
    (fun _ => by rw [checkOf_readInstr]; rfl) (by rwa [readInstr_ctrlIndex])
  rwa [readInstr_ctrlIndex, expand_readInstr, List.length_singleton, Pos.succ_one] at h

/-- A bus read instruction faults as its read does, on the clock (R160, R231). -/
theorem readFaults_readInstr (P : Port) (c : Nat) : ReadFaults (readInstr P c) c P := by
  intro s ag ctl hs hc hoff
  have ⟨_, hag, _⟩ := hs
  exact exec_readInstr_stops hs (busRead_clockOff hag hc hoff P)

/-- Settles O19: the read of a write-only port returns what `WO_READ` says, and counts a draw only under `DRAW`. -/
theorem writeOnlyPortReads : Obligations.WriteOnlyPortReads := by
  intro P c
  refine ⟨fun m o hm => decode_readSelector hm (.wo P) _,
    fun s ag ctl hs hc => ⟨fun hzero => ?_, fun hdraw => ?_⟩, readFaults_readInstr (.wo P) c⟩
  · rw [exec_readInstr (.wo P) hs hc, readWord_zero hzero, drawsAfter_zero hzero]
  · rw [exec_readInstr (.wo P) hs hc, readWord_draw hdraw, drawsAfter_draw hdraw]

/-- Settles O20: the level port returns a drawn word and counts the draw. -/
theorem levelReadIsADraw : Obligations.LevelReadIsADraw := by
  intro c
  refine ⟨fun m o hm => decode_readSelector hm .level _, fun s ag ctl hs hc => ?_, readFaults_readInstr .level c⟩
  have h := exec_readInstr .level hs hc
  rwa [readWord_level, drawsAfter_level] at h

end Machine
end Sys2Proof
end

section
/-! Progress (R205, R248, R249): a machine in order is never without a step, each step without a mark uses up one of the
steps left, and so every run ends. -/

namespace Sys2Proof.Machine

/-! ### A step is there -/

/-- The stop is one of the spec's own, which the step records in a mark (R233). -/
def Stop.setsMark : Stop → Bool
  | .fault _ _ | .refuse _ => true
  | .ended | .broken _ => false

/-- Where every stop sets a mark, the step answers a next state (R233). -/
theorem conclude_answers {s : State} {x : Except Stop State} (h : ∀ e, x = .error e → e.setsMark = true) :
    ∃ t, conclude s x = .next t := by
  cases x with
  | ok s' => exact ⟨s', rfl⟩
  | error e =>
    cases e with
    | fault r info => exact ⟨_, rfl⟩
    | refuse r => exact ⟨_, rfl⟩
    | ended => exact absurd (h _ rfl) nofun
    | broken f => exact absurd (h _ rfl) nofun

theorem busWrite_setsMark {c : Nat} {P : WritePort} {v : Word} {s : State} {e : Stop}
    (h : busWrite c P v s = .error e) : e.setsMark = true := by
  unfold busWrite at h
  split at h
  · cases h; rfl
  · split at h
    · cases h; rfl
    · split at h <;> cases h
      rfl

theorem busRead_setsMark {c : Nat} {P : Port} {s : State} {e : Stop} (h : busRead c P s = .error e) :
    e.setsMark = true := by
  unfold busRead at h
  split at h
  · cases h; rfl
  · split at h <;> cases h
    rfl

theorem clockOn_setsMark {c : Nat} {s : State} {e : Stop} (h : clockOn c s = .error e) : e.setsMark = true := by
  unfold clockOn at h
  split at h <;> cases h
  rfl

theorem entryCheck_setsMark {i : Instr} {c : Nat} {ws : List Word} {s : State} {e : Stop}
    (h : entryCheck i c ws s = some e) : e.setsMark = true := by
  unfold entryCheck at h
  split at h
  · cases h; rfl
  · split at h
    · cases h; rfl
    · split at h <;> cases h
      rfl

theorem checkOf_setsMark {i : Instr} {s : State} {e : Stop} (h : checkOf i s = some e) : e.setsMark = true := by
  rcases checkOf_eq i with hc | hc <;> rw [hc] at h
  · exact entryCheck_setsMark h
  · cases h

/-- A micro-step that finds the `tmp` it uses stops with a mark only (R33, R190). -/
theorem micro_setsMark {c : Nat} {m : MicroOp} {s : State} {e : Stop} (ht : m.usesTmp = true → (curTmp s).isSome = true)
    (h : micro c m s = .error e) : e.setsMark = true := by
  cases m with
  | wr P v => exact busWrite_setsMark h
  | wro P k =>
    obtain ⟨x, hx⟩ := Option.isSome_iff_exists.mp (ht rfl)
    simp only [micro, hx] at h
    exact busWrite_setsMark h
  | rd P =>
    simp only [micro] at h
    split at h <;> cases h
    next he => exact busRead_setsMark he
  | rdl k =>
    simp only [micro] at h
    split at h <;> cases h
    next he => exact busRead_setsMark he
  | rdRet P =>
    simp only [micro] at h
    split at h <;> cases h
    next he => exact busRead_setsMark he
  | clk => exact clockOn_setsMark h

/-- An instruction answers a next state where its agent stands at one of its micro-steps with the `tmp` that uses. -/
theorem exec_answers {i : Instr} {s : State} {ag : Agent} {j : Nat} {m : MicroOp} (hs : s.standsAt ag j)
    (hm : (expand s.par i)[j]? = some m) (ht : ag.tmp.isSome = m.usesTmp) : ∃ t, exec i s = .next t := by
  have ⟨hr, hag, hj⟩ := hs
  cases hchk : (if j = 0 then checkOf i s else none) with
  | some e =>
    obtain ⟨rfl, hchk⟩ := Option.ite_none_right_eq_some.mp hchk
    rw [exec_check_stops hs hm hchk]
    exact conclude_answers fun _ he => Except.error.inj he ▸ checkOf_setsMark hchk
  | none =>
    have hchk : j = 0 → checkOf i s = none := fun h0 => by rwa [if_pos h0] at hchk
    cases hmic : micro i.ctrlIndex m s with
    | ok s' => exact ⟨_, by rw [exec_eq_issue, issue_micro hs hm hchk, hmic]; rfl⟩
    | error e =>
      rw [exec_stops hs hm hchk hmic]
      have htmp : m.usesTmp = true → (curTmp s).isSome = true := fun hu => by rw [curTmp_eq hag, ht, hu]
      exact conclude_answers fun _ he => Except.error.inj he ▸ micro_setsMark htmp hmic

/-- Only the selector makes the decoder refuse an operation (R110, R111). -/
theorem decodeSel_of_decode_error {m : RegOffsets} {op : Op} {r : RefusalReason} (h : decode m op = .error r) :
    decodeSel m op.sel = .error r := by
  unfold decode at h
  split at h <;> cases h
  next hd => exact hd

/-- Every unfinished agent of a running machine in order has a step (R31, R33). -/
theorem stepOf_answers {s : State} {a : Nat} {ag : Agent} (hinv : s.inv = true) (hr : s.running)
    (hag : s.agent[a]? = some ag) (hk : ag.pc.k < ag.prog.length) : ∃ t, stepOf a s = .next t := by
  obtain ⟨-, -, -, -, hok⟩ := State.inv_iff.mp hinv
  have hop := List.getElem?_eq_getElem hk
  cases hd : decode s.par.regOffset ag.prog[ag.pc.k] with
  | error r => exact ⟨_, stepOf_decode_refused hr hag hop (decodeSel_of_decode_error hd)⟩
  | ok i =>
    obtain ⟨m, hm, ht⟩ := (Agent.ok_iff_of_decode hop hd).mp (hok ag (List.mem_of_getElem? hag))
    have hf : fetch (issueTo a s) = .ok i := fetch_ok.mpr ⟨ag, _, hag, hop, hd⟩
    have hs : (issueTo a s).standsAt ag ag.pc.j := ⟨hr, hag, rfl⟩
    rw [stepOf_eq hr hf]
    exact exec_answers hs hm ht

/-- The schedule chooses an agent unless all have finished (R248). -/
theorem chooseAgent_of_unfinished {s : State} {a : Nat} {ag : Agent} (hag : s.agent[a]? = some ag)
    (hk : ag.pc.k < ag.prog.length) :
    ∃ b ag', chooseAgent s = some b ∧ s.agent[b]? = some ag' ∧ ag'.pc.k < ag'.prog.length := by
  obtain ⟨hchosen, hnone, -⟩ := anyUnfinishedAgentMayMove s
  cases hb : chooseAgent s with
  | none => exact absurd hk (Nat.not_lt.mpr (hnone.mp hb ag (List.mem_of_getElem? hag)))
  | some b =>
    obtain ⟨ag', hag', hk'⟩ := hchosen b hb
    exact ⟨b, ag', rfl, hag', hk'⟩

/-- In a running machine the step is the one of the chosen agent (R248). -/
theorem step_of_chosen {s : State} {a : Nat} (hr : s.running) (ha : chooseAgent s = some a) : step s = stepOf a s := by
  simp [step, haltedBy_none.mpr hr, ha]

theorem step_answers {s : State} {a : Nat} {ag : Agent} (hinv : s.inv = true) (hr : s.running)
    (hag : s.agent[a]? = some ag) (hk : ag.pc.k < ag.prog.length) : ∃ t, step s = .next t := by
  obtain ⟨b, ag', hb, hag', hk'⟩ := chooseAgent_of_unfinished hag hk
  rw [step_of_chosen hr hb]
  exact stepOf_answers hinv hr hag' hk'

/-- Settles O10: the agent stands at a micro-step that finds its `tmp`, whose stops set marks; and the schedule chooses
such an agent. -/
theorem unfinishedAgentHasAStep : Obligations.UnfinishedAgentHasAStep := fun _ _ _ hinv hr hag hk =>
  ⟨stepOf_answers hinv hr hag hk, step_answers hinv hr hag hk⟩

/-! ### The steps left -/

/-- Replacing an entry changes a sum over the list by the difference of the two entries. -/
theorem sum_map_set {α : Type} {f : α → Nat} {l : List α} {n : Nat} {x : α} (y : α) (hx : l[n]? = some x) :
    ((l.set n y).map f).sum + f x = (l.map f).sum + f y := by
  induction l generalizing n with
  | nil => cases hx
  | cons z l ih =>
    cases n with
    | zero =>
      obtain rfl : z = x := Option.some.inj hx
      simp only [List.set_cons_zero, List.map_cons, List.sum_cons]
      omega
    | succ n =>
      have := ih hx
      simp only [List.set_cons_succ, List.map_cons, List.sum_cons]
      omega

/-- The steps left to an agent: what is left of its operation, then the operations after it (R205). -/
theorem agentSteps_eq {p : Params} {ag : Agent} {op : Op} (hop : ag.prog[ag.pc.k]? = some op)
    (hj : ag.pc.j < opSteps p op) :
    agentSteps p ag = (opSteps p op - ag.pc.j) + ((ag.prog.drop (ag.pc.k + 1)).map (opSteps p)).sum := by
  obtain ⟨hk, rfl⟩ := List.getElem?_eq_some_iff.mp hop
  rw [agentSteps, List.drop_eq_getElem_cons hk, List.map_cons, List.sum_cons]
  omega

/-- Moving on from a micro-step that its operation has leaves one step less (R31, R205). -/
theorem agentSteps_succ {p : Params} {ag ag' : Agent} {op : Op} {i : Instr} (hop : ag.prog[ag.pc.k]? = some op)
    (hd : decode p.regOffset op = .ok i) (hj : ag.pc.j < (expand p i).length) (hprog : ag'.prog = ag.prog)
    (hpc : ag'.pc = ag.pc.succ (expand p i).length) : agentSteps p ag' + 1 = agentSteps p ag := by
  have hsteps : opSteps p op = (expand p i).length := by rw [opSteps, hd]
  rw [agentSteps_eq hop (hsteps ▸ hj), hsteps]
  by_cases hlt : ag.pc.j + 1 < (expand p i).length
  · rw [Pos.succ_of_lt hlt] at hpc
    rw [agentSteps_eq (op := op) (by rw [hprog, hpc]; exact hop) (by rw [hsteps, hpc]; exact hlt), hsteps, hprog, hpc]
    simp only [Pos.nextMicro]
    omega
  · rw [Pos.succ_of_not_lt hlt] at hpc
    rw [agentSteps, hprog, hpc]
    simp only [Pos.nextOp]
    omega

theorem exec_stepsLeft {i : Instr} {s t : State} (hf : fetch s = .ok i) (h : exec i s = .next t) (ht : t.running) :
    t.stepsLeft + 1 = s.stepsLeft := by
  obtain ⟨ag, op, hag, hop, hd⟩ := fetch_ok.mp hf
  obtain ⟨-, ag₀, m, hag₀, hm, ⟨r, info, rfl⟩ | ⟨r, rfl⟩ | ⟨_, _, ag', _, _, -, -, hac, -, rfl⟩⟩ := exec_next h
  · exact absurd ht (s.faulted_not_running r info)
  · exact absurd ht (s.refusedFor_not_running r)
  · obtain rfl : ag₀ = ag := Option.some.inj (hag₀.symm.trans hag)
    have hj := (List.getElem?_eq_some_iff.mp hm).1
    have hone := agentSteps_succ (ag' := { ag' with pc := ag₀.pc.succ (expand s.par i).length }) hop hd hj
      hac.prog_pc.1 rfl
    have hsum := sum_map_set (f := agentSteps s.par) { ag' with pc := ag₀.pc.succ (expand s.par i).length } hag
    simp only [State.stepsLeft]
    omega

theorem stepOf_stepsLeft {s t : State} {a : Nat} (h : stepOf a s = .next t) (ht : t.running) :
    t.stepsLeft + 1 = s.stepsLeft := by
  obtain ⟨-, ⟨r, -, rfl⟩ | ⟨i, hf, hi⟩⟩ := stepOf_next h
  · exact absurd ht (State.refusedFor_not_running _ r)
  · exact exec_stepsLeft (s := issueTo a s) hf hi ht

/-- Settles O11: the step moves one agent on by one micro-step of its operation. -/
theorem everyStepUsesUpOneStep : Obligations.EveryStepUsesUpOneStep := fun _ _ _ _ => stepOf_stepsLeft

/-! ### The end of a run -/

/-- An agent in order that has not finished has a step left (R31, R205). -/
theorem agentSteps_pos {p : Params} {ag : Agent} (hok : Agent.ok p ag = true) (hk : ag.pc.k < ag.prog.length) :
    0 < agentSteps p ag := by
  have hop := List.getElem?_eq_getElem hk
  have hj : ag.pc.j < opSteps p ag.prog[ag.pc.k] := by
    cases hd : decode p.regOffset ag.prog[ag.pc.k] with
    | ok i =>
      obtain ⟨m, hm, -⟩ := (Agent.ok_iff_of_decode hop hd).mp hok
      simpa [opSteps, hd] using (List.getElem?_eq_some_iff.mp hm).1
    | error r =>
      simp only [Agent.ok, hop, hd, Bool.and_eq_true, decide_eq_true_eq] at hok
      simp [opSteps, hd, hok.1]
  rw [agentSteps_eq hop hj]
  omega

theorem stepsLeft_pos {s : State} {a : Nat} {ag : Agent} (hinv : s.inv = true) (hag : s.agent[a]? = some ag)
    (hk : ag.pc.k < ag.prog.length) : 0 < s.stepsLeft := by
  obtain ⟨-, -, -, -, hok⟩ := State.inv_iff.mp hinv
  have hmem := List.mem_of_getElem? hag
  exact Nat.lt_of_lt_of_le (agentSteps_pos (hok ag hmem) hk) (List.le_sum_of_mem (List.mem_map_of_mem hmem))

/-- An agent in order that has finished stands at the end of its program (R31, R249). -/
theorem Agent.ok_finished {p : Params} {ag : Agent} (hok : Agent.ok p ag = true) (hk : ag.prog.length ≤ ag.pc.k) :
    ag.pc = { k := ag.prog.length, j := 0 } := by
  simp only [Agent.ok, List.getElem?_eq_none_iff.mpr hk, Bool.and_eq_true, decide_eq_true_eq] at hok
  obtain ⟨⟨hk, hj⟩, -⟩ := hok
  rw [← hk, ← hj]

/-- A running machine in order in which no agent can be chosen has come to its good end (R249). -/
theorem endsWell_of_no_choice {s : State} (hinv : s.inv = true) (hr : s.running) (hnone : chooseAgent s = none) :
    s.endsWell = true := by
  obtain ⟨-, -, -, -, hok⟩ := State.inv_iff.mp hinv
  obtain ⟨hfault, hrefused⟩ := hr
  have hfinished := (anyUnfinishedAgentMayMove s).2.1.mp hnone
  simp only [State.endsWell, hfault, hrefused, Option.isNone_none, Bool.and_true, List.all_eq_true, decide_eq_true_eq]
  exact fun ag hag => Agent.ok_finished (hok ag hag) (hfinished ag hag)

/-- Settles O12, by induction on the steps left: a state with a choice has a step, which sets a mark or leaves one step
less; one without a choice is a good end. -/
theorem everyRunEnds : Obligations.EveryRunEnds := by
  intro s
  induction hn : s.stepsLeft using Nat.strongRecOn generalizing s with
  | ind n ih =>
    intro hinv hr
    subst hn
    cases ha : chooseAgent s with
    | none => exact ⟨0, s, Nat.zero_le _, rfl, .inr (endsWell_of_no_choice hinv hr ha)⟩
    | some a =>
      obtain ⟨ag, hag, hk⟩ := (anyUnfinishedAgentMayMove s).1 a ha
      obtain ⟨t, ht⟩ := stepOf_answers hinv hr hag hk
      have hstep : step s = .next t := (step_of_chosen hr ha).trans ht
      by_cases htr : t.running
      · have hless := stepOf_stepsLeft ht htr
        obtain ⟨k, u, hku, hrun, hend⟩ := ih t.stepsLeft (by omega) t rfl (stepOf_inv hinv ht) htr
        exact ⟨k + 1, u, by omega, (core_run_succ hstep).trans hrun, hend⟩
      · exact ⟨1, t, stepsLeft_pos hinv hag hk, core_run_succ hstep, .inl htr⟩

end Sys2Proof.Machine
end

section
/-! The entry checks of micro-step 0 (R198), in their order. -/

namespace Sys2Proof.Machine

theorem entryCheck_clockOff {s : State} {ag : Agent} {c : Nat} {ctl : Ctrl} (hag : s.agent[s.cur]? = some ag)
    (hc : s.ctrl[c]? = some ctl) (hoff : ctl.clkEn = false) (i : Instr) (ws : List Word) :
    entryCheck i c ws s = some (.fault .clockNotEnabled
      { agent := s.cur, pc := ag.pc, c := c, subject := .operation i, value := none }) := by
  simp [entryCheck, hc, hoff, faultInfo, curPos_eq hag]

/-- The third check records the first word that names a missing pin (R198; log entry 19). -/
theorem entryCheck_outOfRange {s : State} {ag : Agent} {c : Nat} {ctl : Ctrl} (hag : s.agent[s.cur]? = some ag)
    (hc : s.clocked c ctl) {before rest : List Word} {v : Word} (hbefore : ∀ w ∈ before, pinsExist s.par w)
    (hv : ¬ pinsExist s.par v) (i : Instr) :
    entryCheck i c (before ++ v :: rest) s = some (.fault .maskOutOfRange
      { agent := s.cur, pc := ag.pc, c := c, subject := .operation i, value := some v }) := by
  obtain ⟨hc, hon⟩ := hc
  have hfirst : firstOutOfRange s.par (before ++ v :: rest) = some v :=
    List.find?_eq_some_iff_append.mpr ⟨outOfRange_true.mpr hv, before, rest, rfl,
      fun w hw => by rw [outOfRange_false.mpr (hbefore w hw)]; rfl⟩
  simp [entryCheck, hc, hon, hfirst, faultInfo, curPos_eq hag]

/-- The checks pass only where the controller is clocked and the words name existing pins (R198). -/
theorem entryCheck_passed {i : Instr} {c : Nat} {ws : List Word} {s : State} (h : entryCheck i c ws s = none) :
    ∃ ctl, s.clocked c ctl ∧ ∀ w ∈ ws, pinsExist s.par w := by
  unfold entryCheck at h
  split at h
  · cases h
  · next ctl hc =>
    split at h
    · cases h
    · next hon =>
      split at h
      · cases h
      · next hfirst =>
        refine ⟨ctl, ⟨hc, eq_true_of_ne_false hon⟩, fun w hw => ?_⟩
        exact outOfRange_false.mp (eq_false_of_ne_true (List.find?_eq_none.mp hfirst w hw))

/-- The primitives and `GET_LEVEL` are the operations with the three checks (R198). -/
theorem checkOf_of_checked {i : Instr} (h : checkedOnEntry i = true) :
    checkOf i = entryCheck i i.ctrlIndex i.pinWords := by
  cases i with
  | setHigh | setLow | cfgPullup | cfgInput | cfgOutput | getLevel => rfl
  | _ => cases h

/-- The entry checks pass where the controller is clocked and the pin words name existing pins (R198). -/
theorem checkOf_passes {i : Instr} {s : State} {ctl : Ctrl} (hc : s.clocked i.ctrlIndex ctl)
    (hw : ∀ w ∈ i.pinWords, pinsExist s.par w) : checkOf i s = none := by
  rcases checkOf_eq i with h | h <;> rw [h]
  · exact entryCheck_none hc hw
  · rfl

theorem entryChecksFail {i : Instr} (hi : checkedOnEntry i = true) : EntryChecksFail i := by
  intro s ag hs
  have ⟨_, hag, _⟩ := hs
  have hchk := checkOf_of_checked hi
  obtain ⟨m, hm, -⟩ := expand_zero s.par i
  refine ⟨exec_noController hs, fun ctl hc hoff => ?_, fun ctl before v rest hc hws hbefore hv => ?_⟩
  · exact exec_check_stops hs hm (hchk ▸ entryCheck_clockOff hag hc hoff i i.pinWords)
  · exact exec_check_stops hs hm (by rw [hchk, hws]; exact entryCheck_outOfRange hag hc hbefore hv i)

/-- The next state of `CLOCK_ENABLE` on a controller that exists (R196). -/
theorem exec_clockEnable {s : State} {ag : Agent} {c : Nat} {ctl : Ctrl} (hs : s.standsAt ag 0)
    (hc : s.ctrl[c]? = some ctl) :
    exec (.clockEnable c) s = .next (s.after c { ctl with clkEn := true } { ag with pc := ag.pc.nextOp }
      [.clockEnable s.cur c]) := by
  have h := exec_clk (i := .clockEnable c) hs rfl (fun _ => rfl) hc
  exact Pos.succ_one (p := ag.pc) ▸ h

/-- Settles O24: each failing check is the stop of `checkOf`, and `CLOCK_ENABLE` stops on a missing controller only. -/
theorem entryChecksInOrder : Obligations.EntryChecksInOrder :=
  ⟨fun _ => entryChecksFail, fun c _ _ hs =>
    ⟨exec_noController (i := .clockEnable c) hs, fun _ hc => ⟨_, exec_clockEnable hs hc, hs.1⟩⟩⟩

end Sys2Proof.Machine
end

section
/-! The driver primitives but `CFG_OUTPUT`, and the collaborators (R191 to R194, R196, R197): how their selectors
decode and their exact next states. -/

namespace Sys2Proof

/-- The selector of a call, with any operands, decodes to the call (R104, R106, R107). -/
theorem decode_call {sel : Sel} (oc : OpCode) (hcls : sel.extractLsb' 14 2 = 0b10#2) (hres : sel.extractLsb' 8 6 = 0#6)
    (hid : decodeCall (sel.extractLsb' 0 8) = .ok oc) (m : RegOffsets) (o : Operands) :
    decode m { sel := sel, operands := o } = .ok (oc.withOperands o) := by
  rw [decode, decodeSel_call hcls hres, hid]

/-- A `Bool` operand is assembled as what it means (R108, R199). -/
theorem boolOperand_of_means {x : BoolArg} {e : Bool} (h : x.means e) : boolOperand x = e := by
  cases x with
  | bool b => exact h.symm
  | word w => exact Bool.eq_iff_iff.mpr (bne_iff_ne.trans h.symm)

namespace Machine

/-- The pull-up port that a choice of the pull-up writes (R193). -/
def pullPort (enable : Bool) : WritePort := if enable then .puen else .pudis

/-- The filter port that a choice of the filter writes (R194). -/
def filterPort (enable : Bool) : WritePort := if enable then .fen else .fdis

/-- Where an agent stands at a micro-step that is not the last one, the next position is the next micro-step (R190). -/
theorem State.standsAt.succ_of_lt {s : State} {ag : Agent} {j n : Nat} (hs : s.standsAt ag j) (h : j + 1 < n) :
    ag.pc.succ n = ag.pc.nextMicro := by
  obtain ⟨-, -, rfl⟩ := hs
  exact Pos.succ_of_lt h

/-- Where an agent stands at the last micro-step, the next position is the next operation (R31). -/
theorem State.standsAt.succ_of_last {s : State} {ag : Agent} {j n : Nat} (hs : s.standsAt ag j) (h : j + 1 = n) :
    ag.pc.succ n = ag.pc.nextOp := by
  obtain ⟨-, -, rfl⟩ := hs
  exact Pos.succ_of_not_lt (by omega)

theorem expand_cfgPullup (p : Params) (c : Nat) (mask : Word) (enable : Bool) :
    expand p (.cfgPullup c mask enable) = [.wr (pullPort enable) mask] := by
  cases enable <;> rfl

/-! ### One write: `SET_HIGH`, `SET_LOW`, `CFG_PULLUP` -/

/-- The next state of an operation that is one write (R191 to R193). -/
theorem exec_oneWrite {i : Instr} {s : State} {ag : Agent} {ctl : Ctrl} {P : WritePort} {v : Word}
    (hi : expand s.par i = [.wr P v]) (hs : s.standsAt ag 0) (hc : s.clocked i.ctrlIndex ctl)
    (hw : ∀ w ∈ i.pinWords, pinsExist s.par w) (hv : pinsExist s.par v) :
    exec i s = .next (s.after i.ctrlIndex (ctl.written P v) { ag with pc := ag.pc.nextOp }
      [.write s.cur i.ctrlIndex P v]) := by
  have h := exec_wr (P := P) hs (by rw [hi]; rfl) (fun _ => checkOf_passes hc hw) hc hv
  rwa [hi, List.length_singleton, Pos.succ_one] at h

section
variable {s : State} {ag : Agent} {c : Nat} {mask : Word} {ctl : Ctrl} (hs : s.standsAt ag 0) (hc : s.clocked c ctl)
  (hv : pinsExist s.par mask)
include hs hc hv

theorem exec_setHigh : exec (.setHigh c mask) s = .next (s.after c (ctl.written .oset mask)
    { ag with pc := ag.pc.nextOp } [.write s.cur c .oset mask]) :=
  exec_oneWrite (i := .setHigh c mask) rfl hs hc (List.forall_mem_singleton.mpr hv) hv

theorem exec_setLow : exec (.setLow c mask) s = .next (s.after c (ctl.written .oclr mask)
    { ag with pc := ag.pc.nextOp } [.write s.cur c .oclr mask]) :=
  exec_oneWrite (i := .setLow c mask) rfl hs hc (List.forall_mem_singleton.mpr hv) hv

theorem exec_cfgPullup (enable : Bool) : exec (.cfgPullup c mask enable) s =
    .next (s.after c (ctl.written (pullPort enable) mask) { ag with pc := ag.pc.nextOp }
      [.write s.cur c (pullPort enable) mask]) :=
  exec_oneWrite (i := .cfgPullup c mask enable) (expand_cfgPullup s.par c mask enable) hs hc
    (List.forall_mem_singleton.mpr hv) hv

end

/-- Settles O25: each is one write, of the port that sets the level or of the one that clears it. -/
theorem setHighAndSetLow : Obligations.SetHighAndSetLow := fun _ _ =>
  ⟨fun m _ => ⟨decode_call .setHigh rfl rfl rfl m _, decode_call .setLow rfl rfl rfl m _⟩,
    fun _ _ _ hs hc hv => ⟨exec_setHigh hs hc hv, exec_setLow hs hc hv⟩, entryChecksFail rfl, entryChecksFail rfl⟩

/-- Settles O26: one write, of the port that `enable` selects; and `enable` decodes to what it means. -/
theorem configurePullUp : Obligations.ConfigurePullUp := by
  intro c mask
  refine ⟨fun m o x e hx => ?_, fun s ag ctl hs hc hv => ⟨exec_cfgPullup hs hc hv true, exec_cfgPullup hs hc hv false⟩,
    fun e => entryChecksFail rfl⟩
  rw [← boolOperand_of_means hx]
  exact decode_call .cfgPullup rfl rfl rfl m _

/-! ### Two writes: `CFG_INPUT` -/

theorem expand_cfgInput (p : Params) (c : Nat) (mask attrs : Word) :
    expand p (.cfgInput c mask attrs) =
      [.wr (pullPort (attrWantsPullup p attrs)) mask, .wr (filterPort (attrWantsFilter p attrs)) mask] := by
  cases hp : attrWantsPullup p attrs <;> cases hf : attrWantsFilter p attrs <;>
    simp [expand, expandCfgInput, hp, hf, pullPort, filterPort]

theorem expand_cfgInput_length (p : Params) (c : Nat) (mask attrs : Word) :
    (expand p (.cfgInput c mask attrs)).length = 2 := by rw [expand_cfgInput]; rfl

section
variable {s : State} {ag : Agent} {c : Nat} {mask attrs : Word} {ctl : Ctrl} {b : Bool} (hc : s.clocked c ctl)
  (hv : pinsExist s.par mask)
include hc hv

/-- Micro-step 0 of `CFG_INPUT` writes the pull-up port that `attrs` selects (R194). -/
theorem exec_cfgInput_pull (hs : s.standsAt ag 0) (hb : attrWantsPullup s.par attrs = b) :
    exec (.cfgInput c mask attrs) s =
      .next (s.after c (ctl.written (pullPort b) mask) { ag with pc := ag.pc.nextMicro }
        [.write s.cur c (pullPort b) mask]) := by
  have h := exec_wr (i := .cfgInput c mask attrs) (P := pullPort b) hs (by rw [expand_cfgInput, hb]; rfl)
    (fun _ => checkOf_passes hc (List.forall_mem_singleton.mpr hv)) hc hv
  rwa [expand_cfgInput_length, hs.succ_of_lt Nat.one_lt_two] at h

/-- Micro-step 1 of `CFG_INPUT` writes the filter port that `attrs` selects (R194). -/
theorem exec_cfgInput_filter (hs : s.standsAt ag 1) (hb : attrWantsFilter s.par attrs = b) :
    exec (.cfgInput c mask attrs) s =
      .next (s.after c (ctl.written (filterPort b) mask) { ag with pc := ag.pc.nextOp }
        [.write s.cur c (filterPort b) mask]) := by
  have h := exec_wr (i := .cfgInput c mask attrs) (P := filterPort b) hs (by rw [expand_cfgInput, hb]; rfl) nofun hc hv
  rwa [expand_cfgInput_length, hs.succ_of_last rfl] at h

end

/-- Settles O27: the two writes, whose ports the bits of `attrs` select. -/
theorem configureAsInput : Obligations.ConfigureAsInput := fun _ _ _ =>
  ⟨fun m _ => decode_call .cfgInput rfl rfl rfl m _,
    fun _ _ _ hs hc hv => ⟨fun hset => exec_cfgInput_pull hc hv hs (bne_iff_ne.mpr hset),
      fun hclear => exec_cfgInput_pull hc hv hs (bne_eq_false_iff_eq.mpr hclear)⟩,
    fun _ _ _ hs hc hv => ⟨fun hset => exec_cfgInput_filter hc hv hs (bne_iff_ne.mpr hset),
      fun hclear => exec_cfgInput_filter hc hv hs (bne_eq_false_iff_eq.mpr hclear)⟩,
    entryChecksFail rfl⟩

/-! ### The collaborators -/

/-- Settles O30: the next state is `exec_clockEnable`, which leaves a controller whose clock is enabled already. -/
theorem clockEnableTurnsTheClockOn : Obligations.ClockEnableTurnsTheClockOn := by
  intro c
  refine ⟨fun m o => decode_call .clockEnable rfl rfl rfl m _, fun s ag hs =>
    ⟨fun ctl hc => exec_clockEnable hs hc, fun ctl hc => ?_, exec_noController (i := .clockEnable c) hs⟩⟩
  obtain ⟨hc, hon⟩ := hc
  have hsame : { ctl with clkEn := true } = ctl := by rw [← hon]
  rw [exec_clockEnable hs hc, hsame, after_same hc]

/-- The next state of `GET_LEVEL` (R197). -/
theorem exec_getLevel {s : State} {ag : Agent} {c : Nat} {mask : Word} {ctl : Ctrl} (hs : s.standsAt ag 0)
    (hc : s.clocked c ctl) (hv : pinsExist s.par mask) :
    exec (.getLevel c mask) s = .next { s with
      agent := s.agent.set s.cur { ag with ret := some (drawn s &&& mask), pc := ag.pc.nextOp },
      trace := s.trace ++ [.read s.cur c .level (drawn s)],
      draws := s.draws + 1 } := by
  have hchk : checkOf (.getLevel c mask) s = none := checkOf_passes hc (List.forall_mem_singleton.mpr hv)
  have h := exec_rdl (i := .getLevel c mask) hs rfl (fun _ => hchk) hc
  rw [readWord_level, drawsAfter_level] at h
  exact Pos.succ_one (p := ag.pc) ▸ h

/-- Settles O31: the result is the drawn word and-ed with `mask`. -/
theorem getLevelIsMasked : Obligations.GetLevelIsMasked := by
  intro c mask
  refine ⟨fun m o => decode_call .getLevel rfl rfl rfl m _, fun s ag ctl hs hc hv =>
    ⟨_, exec_getLevel hs hc hv, rfl, fun n hn => ?_, fun hzero => ?_⟩, entryChecksFail rfl⟩
  · rw [Nat.testBit_and, hn, Bool.and_false]
  · rw [hzero, Nat.and_zero]

end Machine
end Sys2Proof
end

section
/-! `CFG_OUTPUT` (R195): each of its eight micro-steps from any state its agent stands in, then all eight uninterrupted
under `WO_READ = ZERO`, as of every whole primitive. -/

namespace Sys2Proof.Machine

/-! ### The micro-steps, one at a time -/

theorem expand_cfgOutput_length (p : Params) (c : Nat) (mask level : Word) (md pu : Bool) :
    (expand p (.cfgOutput c mask level md pu)).length = 8 := by
  cases md <;> cases pu <;> rfl

/-- The "OR into" writes of `CFG_OUTPUT`, micro-steps 1, 3 and 6, are to the port `orPort` names (R195). -/
theorem expand_cfgOutput_orWrite {j : Nat} {md : Bool} {P : WritePort} (hj : j ∈ [1, 3, 6]) (hP : orPort md j = some P)
    (p : Params) (c : Nat) (mask level : Word) (pu : Bool) :
    (expand p (.cfgOutput c mask level md pu))[j]? = some (.wro P mask) := by
  simp only [List.mem_cons, List.not_mem_nil, or_false] at hj
  rcases hj with rfl | rfl | rfl <;> obtain rfl := Option.some.inj hP <;> cases md <;> rfl

/-- The last micro-step of `CFG_OUTPUT` writes the pull-up port that `pullup` selects (R195). -/
theorem expand_cfgOutput_pull (p : Params) (c : Nat) (mask level : Word) (md pu : Bool) :
    (expand p (.cfgOutput c mask level md pu))[7]? = some (.wr (pullPort pu) mask) := by
  cases md <;> cases pu <;> rfl

/-- An "OR into" write whose word names a missing pin faults on its port (R130, R190). -/
theorem micro_wro_outOfRange {s : State} {ag : Agent} {c : Nat} {ctl : Ctrl} {x k : Word}
    (hag : s.agent[s.cur]? = some ag) (hx : ag.tmp = some x) (hc : s.clocked c ctl) (hv : ¬ pinsExist s.par (x ||| k))
    (P : WritePort) :
    micro c (.wro P k) s = .error (.fault .maskOutOfRange
      { agent := s.cur, pc := ag.pc, c := c, subject := .port (.wo P), value := some (x ||| k) }) := by
  have hag' : (setTmp none s).agent[(setTmp none s).cur]? = some { ag with tmp := none } := by simp [hag]
  simp only [micro, curTmp_eq hag, hx]
  exact busWrite_outOfRange hag' hc hv P

section
variable {c : Nat} {mask level : Word} {md pu : Bool} {s : State} {ag : Agent} {ctl : Ctrl} {j : Nat} {P : WritePort}
  (hs : s.standsAt ag j) (hc : s.clocked c ctl)
include hs hc

/-- A read of an "OR into" pair puts the word read into `tmp` (R160, R190). -/
theorem exec_cfgOutput_read (hpins : j = 0 → pinsExist s.par mask ∧ pinsExist s.par level) (hj : j ∈ [0, 2, 5])
    (hP : orPort md j = some P) :
    exec (.cfgOutput c mask level md pu) s = .next
      { s.after c ctl { ag with tmp := some (readWord (.wo P) s), pc := ag.pc.nextMicro }
          [.read s.cur c (.wo P) (readWord (.wo P) s)] with draws := drawsAfter (.wo P) s } := by
  obtain ⟨Q, hQ, hm⟩ := expandCfgOutput_rd mask level md pu hj
  obtain rfl : Q = P := Option.some.inj (hQ.symm.trans hP)
  have hlt : j + 1 < 8 := by
    simp only [List.mem_cons, List.not_mem_nil, or_false] at hj
    omega
  have h := exec_rd (i := .cfgOutput c mask level md pu) hs hm
    (fun h0 => checkOf_passes hc (by simpa [Instr.pinWords] using hpins h0)) hc
  rw [expand_cfgOutput_length, hs.succ_of_lt hlt] at h
  rw [after_same hc.1]
  exact h

/-- An "OR into" write writes `tmp | mask` and empties `tmp` (R190). -/
theorem exec_cfgOutput_orWrite {x : Word} (hj : j ∈ [1, 3, 6]) (hP : orPort md j = some P) (hx : ag.tmp = some x)
    (hv : pinsExist s.par (x ||| mask)) :
    exec (.cfgOutput c mask level md pu) s = .next (s.after c (ctl.written P (x ||| mask))
      { ag with tmp := none, pc := ag.pc.nextMicro } [.write s.cur c P (x ||| mask)]) := by
  have hrange : j ≠ 0 ∧ j + 1 < 8 := by
    simp only [List.mem_cons, List.not_mem_nil, or_false] at hj
    omega
  have h := exec_wro (i := .cfgOutput c mask level md pu) hs (expand_cfgOutput_orWrite hj hP s.par c mask level pu)
    (fun h0 => absurd h0 hrange.1) hx hc hv
  rwa [expand_cfgOutput_length, hs.succ_of_lt hrange.2] at h

/-- An "OR into" write whose word names a missing pin sets the mark (R130, R190). -/
theorem exec_cfgOutput_orWrite_outOfRange {x : Word} (hj : j ∈ [1, 3, 6]) (hP : orPort md j = some P)
    (hx : ag.tmp = some x) (hv : ¬ pinsExist s.par (x ||| mask)) :
    exec (.cfgOutput c mask level md pu) s = .next (s.faulted .maskOutOfRange
      { agent := s.cur, pc := ag.pc, c := c, subject := .port (.wo P), value := some (x ||| mask) }) := by
  have hj0 : j ≠ 0 := by
    simp only [List.mem_cons, List.not_mem_nil, or_false] at hj
    omega
  exact exec_stops (i := .cfgOutput c mask level md pu) hs (expand_cfgOutput_orWrite hj hP s.par c mask level pu)
    (fun h0 => absurd h0 hj0) (micro_wro_outOfRange hs.2.1 hx hc hv P)

end

/-- Settles O29: the reads, the "OR into" writes with their fault, and the two plain writes, each by its law. -/
theorem configureAsOutputMicroSteps : Obligations.ConfigureAsOutputMicroSteps := by
  intro c mask level md pu s ag ctl j hs hc
  refine ⟨fun P hpins hj hP => ⟨fun hzero => ?_, fun hdraw => ?_⟩,
    fun P x hj hP hx => ⟨fun hv => ?_, exec_cfgOutput_orWrite_outOfRange hs hc hj hP hx⟩, ?_, ?_⟩
  · have h := exec_cfgOutput_read (pu := pu) hs hc hpins hj hP
    rwa [readWord_zero hzero, drawsAfter_zero hzero] at h
  · have h := exec_cfgOutput_read (pu := pu) hs hc hpins hj hP
    rwa [readWord_draw hdraw, drawsAfter_draw hdraw] at h
  · rw [exec_cfgOutput_orWrite hs hc hj hP hx hv]
    simp only [List.mem_cons, List.not_mem_nil, or_false] at hj
    rcases hj with rfl | rfl | rfl <;> obtain rfl := Option.some.inj hP
    · rfl
    · rfl
    · cases md <;> rfl
  · rintro rfl hv
    have h := exec_wr (i := .cfgOutput c mask level md pu) hs rfl nofun hc hv
    rw [expand_cfgOutput_length, hs.succ_of_lt (by decide)] at h
    exact h
  · rintro rfl hv
    have h := exec_wr hs (expand_cfgOutput_pull s.par c mask level md pu) nofun hc hv
    rw [expand_cfgOutput_length, hs.succ_of_last rfl] at h
    cases pu <;> exact h

/-! ### A whole primitive under `WO_READ = ZERO` -/

/-- The controller after a micro-step under `WO_READ = ZERO`, where an "OR into" write finds 0 in `tmp` (R160, R190). -/
def MicroOp.zeroCtrl : Ctrl → MicroOp → Ctrl
  | ctl, .wr P v | ctl, .wro P v => ctl.written P v
  | ctl, .rd _ | ctl, .rdl _ | ctl, .rdRet _ => ctl
  | ctl, .clk => { ctl with clkEn := true }

/-- `tmp` after a micro-step under `WO_READ = ZERO` (R33, R160). -/
def MicroOp.zeroTmp : Option Word → MicroOp → Option Word
  | _, .rd _ => some 0
  | _, .wro _ _ => none
  | x, _ => x

/-- The event that a micro-step of a primitive logs under `WO_READ = ZERO` (R40, R160); no primitive reads a result. -/
def MicroOp.zeroEvent (a c : Nat) : MicroOp → Option Event
  | .wr P v | .wro P v => some (.write a c P v)
  | .rd P => some (.read a c (.wo P) 0)
  | .clk => some (.clockEnable a c)
  | .rdl _ | .rdRet _ => none

/-- The micro-step is a write of one of the words `ws`, or a read into `tmp`. -/
def MicroOp.accesses (ws : List Word) : MicroOp → Prop
  | .wr _ v | .wro _ v => v ∈ ws
  | .rd _ => True
  | .rdl _ | .rdRet _ | .clk => False

/-- The five driver primitives (R191 to R195). -/
def isPrimitive : Instr → Bool
  | .setHigh .. | .setLow .. | .cfgPullup .. | .cfgInput .. | .cfgOutput .. => true
  | _ => false

/-- The primitives write their pin words only (R191 to R195). -/
theorem expand_accesses {i : Instr} (hi : isPrimitive i = true) (p : Params) :
    ∀ m ∈ expand p i, m.accesses i.pinWords := by
  cases i with
  | setHigh | setLow => simp [expand, expandSetHigh, expandSetLow, MicroOp.accesses, Instr.pinWords]
  | cfgPullup => simp [expand_cfgPullup, MicroOp.accesses, Instr.pinWords]
  | cfgInput => simp [expand_cfgInput, MicroOp.accesses, Instr.pinWords]
  | cfgOutput c mask level md pu =>
    cases md <;> cases pu <;> simp [expand, expandCfgOutput, MicroOp.accesses, Instr.pinWords]
  | _ => cases hi

section
variable {i : Instr} {s : State} {ag : Agent} {ctl : Ctrl} (hzero : s.par.woRead = .zero)
  (hw : ∀ w ∈ i.pinWords, pinsExist s.par w) (hc : s.clocked i.ctrlIndex ctl)
include hzero hw hc

/-- One micro-step of a primitive under `WO_READ = ZERO` (R190). -/
theorem exec_underZero {j : Nat} {m : MicroOp} (hs : s.standsAt ag j) (hm : (expand s.par i)[j]? = some m)
    (hacc : m.accesses i.pinWords) (htmp : m.usesTmp = true → ag.tmp = some 0) :
    exec i s = .next (s.after i.ctrlIndex (m.zeroCtrl ctl)
      { ag with tmp := m.zeroTmp ag.tmp, pc := ag.pc.succ (expand s.par i).length }
      (m.zeroEvent s.cur i.ctrlIndex).toList) := by
  have hchk : j = 0 → checkOf i s = none := fun _ => checkOf_passes hc hw
  cases m with
  | wr P v => exact exec_wr hs hm hchk hc (hw v hacc)
  | wro P v =>
    have h := exec_wro hs hm hchk (htmp rfl) hc (by rw [Nat.zero_or]; exact hw v hacc)
    rwa [Nat.zero_or] at h
  | rd P =>
    have h := exec_rd hs hm hchk hc
    rw [readWord_zero hzero, drawsAfter_zero hzero] at h
    rw [MicroOp.zeroCtrl, after_same hc.1]
    exact h
  | rdl | rdRet | clk => cases hacc

end

/-- A run of micro-steps whose first one answers a next state. -/
theorem execSteps_succ {n : Nat} {i : Instr} {s t : State} (h : exec i s = .next t) :
    execSteps (n + 1) i s = execSteps n i t := by
  rw [execSteps, h]

/-- The micro-steps `todo` that a primitive has left, uninterrupted under `WO_READ = ZERO`: their effects one after
another, where `held` says whether the agent holds the 0 of a read in `tmp`. -/
theorem execSteps_underZero {i : Instr} {s : State} {ag : Agent} {ctl : Ctrl} {before todo : List MicroOp} {held : Bool}
    (hzero : s.par.woRead = .zero) (hw : ∀ w ∈ i.pinWords, pinsExist s.par w) (hc : s.clocked i.ctrlIndex ctl)
    (hs : s.standsAt ag before.length) (hms : expand s.par i = before ++ todo) (hne : todo ≠ [])
    (hacc : ∀ m ∈ todo, m.accesses i.pinWords) (hpair : tmpPaired held todo = true)
    (hheld : held = true → ag.tmp = some 0) :
    execSteps todo.length i s = .next (s.after i.ctrlIndex (todo.foldl MicroOp.zeroCtrl ctl)
      { ag with tmp := todo.foldl MicroOp.zeroTmp ag.tmp, pc := ag.pc.nextOp }
      (todo.filterMap (MicroOp.zeroEvent s.cur i.ctrlIndex))) := by
  induction todo generalizing s ag ctl before held with
  | nil => exact absurd rfl hne
  | cons m rest ih =>
    obtain ⟨hm, hrest⟩ := List.forall_mem_cons.mp hacc
    simp only [tmpPaired, Bool.and_eq_true, beq_iff_eq] at hpair
    obtain ⟨huses, hpair⟩ := hpair
    have hfirst := exec_underZero hzero hw hc hs (by rw [hms]; simp) hm fun hu => hheld (huses ▸ hu)
    have hlen : (expand s.par i).length = before.length + 1 + rest.length := by rw [hms]; simp; omega
    have hevent : (m.zeroEvent s.cur i.ctrlIndex).toList ++ rest.filterMap (MicroOp.zeroEvent s.cur i.ctrlIndex)
        = (m :: rest).filterMap (MicroOp.zeroEvent s.cur i.ctrlIndex) := by
      rw [List.filterMap_cons]
      cases m.zeroEvent s.cur i.ctrlIndex <;> rfl
    cases rest with
    | nil =>
      rw [hs.succ_of_last (by rw [hlen]; rfl)] at hfirst
      rw [List.length_singleton, execSteps_succ hfirst, ← hevent]
      simp [execSteps]
    | cons m' rest =>
      rw [hs.succ_of_lt (by rw [hlen]; simp)] at hfirst
      have hkeep : (m.zeroCtrl ctl).clkEn = true := by
        obtain ⟨-, hon⟩ := hc
        cases m <;> simp [MicroOp.zeroCtrl, hon]
      have hset : m.setsTmp = true → m.zeroTmp ag.tmp = some 0 := fun h => by
        cases m with
        | rd => rfl
        | _ => cases h
      have hs' := after_standsAt (c := i.ctrlIndex) (ctl := m.zeroCtrl ctl)
        (ag' := { ag with tmp := m.zeroTmp ag.tmp, pc := ag.pc.nextMicro }) (j' := (before ++ [m]).length)
        (es := (m.zeroEvent s.cur i.ctrlIndex).toList) hs (by simp [Pos.nextMicro, hs.2.2])
      have hlater := ih (s := s.after ..) hzero hw (after_clocked hc hkeep) hs' (by simpa using hms) nofun hrest hpair
        hset
      rw [List.length_cons, execSteps_succ hfirst, hlater, after_after, ← hevent]
      rfl

/-- A whole primitive, uninterrupted under `WO_READ = ZERO` (R190 to R195): the effects of its micro-steps one after
another. -/
theorem execWhole_underZero {i : Instr} {s : State} {ag : Agent} {ctl : Ctrl} (hi : isPrimitive i = true)
    (hzero : s.par.woRead = .zero) (hs : s.standsAt ag 0) (hc : s.clocked i.ctrlIndex ctl)
    (hw : ∀ w ∈ i.pinWords, pinsExist s.par w) :
    execWhole i s = .next (s.after i.ctrlIndex ((expand s.par i).foldl MicroOp.zeroCtrl ctl)
      { ag with tmp := (expand s.par i).foldl MicroOp.zeroTmp ag.tmp, pc := ag.pc.nextOp }
      ((expand s.par i).filterMap (MicroOp.zeroEvent s.cur i.ctrlIndex))) := by
  have hne : expand s.par i ≠ [] := fun h => by
    obtain ⟨m, hm, -⟩ := expand_zero s.par i
    simp [h] at hm
  exact execSteps_underZero (before := []) hzero hw hc hs rfl hne (expand_accesses hi s.par) (expand_tmpPaired s.par i)
    nofun

/-- Settles O28: the effects of the eight micro-steps, one after another. -/
theorem configureAsOutput : Obligations.ConfigureAsOutput := by
  intro c mask level md pu
  refine ⟨fun m o x y hx hy => ?_, fun s ag ctl hs hc hmask hlevel hzero => ?_, entryChecksFail rfl⟩
  · rw [← boolOperand_of_means hx, ← boolOperand_of_means hy]
    exact decode_call .cfgOutput rfl rfl rfl m _
  · have h := execWhole_underZero (i := .cfgOutput c mask level md pu) rfl hzero hs hc
      (by simp [Instr.pinWords, hmask, hlevel])
    rw [execWhole, expand_cfgOutput_length] at h
    cases md <;> cases pu <;> exact h

end Sys2Proof.Machine
end

section
/-! The laws of the primitives under `WO_READ = ZERO` (R202, R203). On each bit of a status field a micro-step is the
identity or a constant, so a whole primitive is one or the other too: issuing it twice is issuing it once. -/

namespace Sys2Proof.Machine

/-! ### What a run without a mark says of its start -/

theorem execSteps_running {n : Nat} {i : Instr} {s t : State} (h : execSteps n i s = .next t) (ht : t.running) :
    s.running := by
  cases n with
  | zero => exact Host.Outcome.next.inj h ▸ ht
  | succ n =>
    unfold execSteps at h
    split at h
    · next hexec => exact exec_running hexec
    · cases h
    · cases h

/-- An operation of one micro-step is whole with that (R190). -/
theorem execWhole_of_length_one {i : Instr} {s : State} (h : (expand s.par i).length = 1) :
    execWhole i s = exec i s := by
  rw [execWhole, h]
  simp only [execSteps]
  cases exec i s <;> rfl

/-- A checked operation that is whole without a mark has passed its entry checks (R198). -/
theorem execWhole_passed {i : Instr} {s t : State} {ag : Agent} (hi : checkedOnEntry i = true) (hs : s.standsAt ag 0)
    (h : execWhole i s = .next t) (ht : t.running) :
    ∃ ctl, s.clocked i.ctrlIndex ctl ∧ ∀ w ∈ i.pinWords, pinsExist s.par w := by
  have ⟨_, hag, hj⟩ := hs
  obtain ⟨m₀, hm₀, -⟩ := expand_zero s.par i
  obtain ⟨n, hn⟩ := Nat.exists_eq_succ_of_ne_zero (Nat.ne_zero_of_lt (List.getElem?_eq_some_iff.mp hm₀).1)
  rw [execWhole, hn, execSteps] at h
  split at h
  · next s' hexec =>
    have hs' := execSteps_running h ht
    rw [exec_eq_issue] at hexec
    obtain ⟨-, ag', m, hag', -, ⟨r, info, rfl⟩ | ⟨r, rfl⟩ | ⟨hchk, -⟩⟩ := issue_next hexec
    · exact absurd hs' (s.faulted_not_running r info)
    · exact absurd hs' (s.refusedFor_not_running r)
    · obtain rfl : ag = ag' := Option.some.inj (hag.symm.trans hag')
      exact entryCheck_passed (checkOf_of_checked hi ▸ hchk hj)
  · cases h
  · cases h

theorem checkedOnEntry_of_primitive {i : Instr} (h : isPrimitive i = true) : checkedOnEntry i = true := by
  cases i with
  | setHigh | setLow | cfgPullup | cfgInput | cfgOutput => rfl
  | _ => cases h

/-- The checked operations are the primitives and `GET_LEVEL` (R198). -/
theorem primitive_or_getLevel {i : Instr} (h : checkedOnEntry i = true) :
    isPrimitive i = true ∨ ∃ c mask, i = .getLevel c mask := by
  cases i with
  | setHigh | setLow | cfgPullup | cfgInput | cfgOutput => exact .inl rfl
  | getLevel c mask => exact .inr ⟨c, mask, rfl⟩
  | _ => cases h

/-- A whole primitive without a mark has the effects of its micro-steps on its controller, and its agent stands at the
next operation (R190 to R195). -/
theorem execWhole_primitive {i : Instr} {s t : State} {ag : Agent} (hi : isPrimitive i = true)
    (hzero : s.par.woRead = .zero) (hs : s.standsAt ag 0) (h : execWhole i s = .next t) (ht : t.running) :
    ∃ ctl ag', s.ctrl[i.ctrlIndex]? = some ctl ∧
      t.ctrl = s.ctrl.set i.ctrlIndex ((expand s.par i).foldl MicroOp.zeroCtrl ctl) ∧ t.par = s.par ∧
      t.standsAt ag' 0 := by
  obtain ⟨ctl, hc, hw⟩ := execWhole_passed (checkedOnEntry_of_primitive hi) hs h ht
  obtain rfl := Host.Outcome.next.inj ((execWhole_underZero hi hzero hs hc hw).symm.trans h)
  exact ⟨ctl, _, hc.1, rfl, rfl, after_standsAt hs rfl⟩

/-! ### Idempotence (R202) -/

/-- Of what `π` reads of a controller, `f` keeps the value, or sets one that does not depend on the controller. -/
def KeepsOrSets {α : Type} (f : Ctrl → Ctrl) (π : Ctrl → α) : Prop :=
  (∀ ctl, π (f ctl) = π ctl) ∨ ∃ b, ∀ ctl, π (f ctl) = b

theorem KeepsOrSets.comp {α : Type} {f g : Ctrl → Ctrl} {π : Ctrl → α} (hf : KeepsOrSets f π) (hg : KeepsOrSets g π) :
    KeepsOrSets (fun ctl => g (f ctl)) π := by
  rcases hg with hg | ⟨b, hg⟩
  · rcases hf with hf | ⟨b, hf⟩
    · exact .inl fun ctl => (hg _).trans (hf ctl)
    · exact .inr ⟨b, fun ctl => (hg _).trans (hf ctl)⟩
  · exact .inr ⟨b, fun ctl => hg _⟩

theorem KeepsOrSets.idem {α : Type} {f : Ctrl → Ctrl} {π : Ctrl → α} (h : KeepsOrSets f π) (ctl : Ctrl) :
    π (f (f ctl)) = π (f ctl) := by
  rcases h with h | ⟨b, h⟩
  · exact h _
  · rw [h, h]

theorem foldl_zeroCtrl_keepsOrSets {α : Type} {π : Ctrl → α} (h : ∀ m, KeepsOrSets (MicroOp.zeroCtrl · m) π)
    (ms : List MicroOp) : KeepsOrSets (ms.foldl MicroOp.zeroCtrl ·) π := by
  induction ms with
  | nil => exact .inl fun _ => rfl
  | cons m ms ih => exact (h m).comp ih

/-- A write decides the bits of its data in its port's field, and keeps every other bit (R130). -/
theorem written_keepsOrSets_bit (P : WritePort) (v : Word) (F : StatusField) (n : Nat) :
    KeepsOrSets (Ctrl.written · P v) (fun ctl => (ctl.field F).testBit n) := by
  cases hv : v.testBit n with
  | false => exact .inl fun ctl => Ctrl.written_field_testBit hv ctl P F
  | true =>
    by_cases hF : portField P = F
    · exact .inr ⟨decide (portKind P = .set), fun ctl => by simp [Ctrl.written_field, hF, applyKind_testBit, hv]⟩
    · exact .inl fun ctl => by simp [Ctrl.written_field, hF]

/-- A write sets its port's log, and keeps every other (R38, R130). -/
theorem written_keepsOrSets_log (P : WritePort) (v : Word) (Q : WritePort) :
    KeepsOrSets (Ctrl.written · P v) (fun ctl => ctl.last.get Q) := by
  by_cases hPQ : P = Q
  · exact .inr ⟨v, fun ctl => by simp [PortLog.get_put, hPQ]⟩
  · exact .inl fun ctl => by simp [PortLog.get_put, hPQ]

theorem zeroCtrl_keepsOrSets_bit (F : StatusField) (n : Nat) (m : MicroOp) :
    KeepsOrSets (MicroOp.zeroCtrl · m) (fun ctl => (ctl.field F).testBit n) := by
  cases m with
  | wr P v | wro P v => exact written_keepsOrSets_bit P v F n
  | rd | rdl | rdRet => exact .inl fun _ => rfl
  | clk => exact .inl fun ctl => by simp [MicroOp.zeroCtrl]

theorem zeroCtrl_keepsOrSets_log (Q : WritePort) (m : MicroOp) :
    KeepsOrSets (MicroOp.zeroCtrl · m) (fun ctl => ctl.last.get Q) := by
  cases m with
  | wr P v | wro P v => exact written_keepsOrSets_log P v Q
  | rd | rdl | rdRet | clk => exact .inl fun _ => rfl

theorem zeroCtrl_keepsOrSets_clkEn (m : MicroOp) : KeepsOrSets (MicroOp.zeroCtrl · m) Ctrl.clkEn := by
  cases m with
  | wr P v | wro P v => exact .inl fun ctl => ctl.written_clkEn P v
  | rd | rdl | rdRet => exact .inl fun _ => rfl
  | clk => exact .inr ⟨true, fun _ => rfl⟩

/-- The same micro-steps again leave the controller as it is, whatever they are. -/
theorem foldl_zeroCtrl_idem (ms : List MicroOp) (ctl : Ctrl) :
    ms.foldl MicroOp.zeroCtrl (ms.foldl MicroOp.zeroCtrl ctl) = ms.foldl MicroOp.zeroCtrl ctl := by
  refine Ctrl.ext_fields (fun F => Nat.eq_of_testBit_eq fun n => ?_) (fun Q => ?_) ?_
  · exact (foldl_zeroCtrl_keepsOrSets (zeroCtrl_keepsOrSets_bit F n) ms).idem ctl
  · exact (foldl_zeroCtrl_keepsOrSets (zeroCtrl_keepsOrSets_log Q) ms).idem ctl
  · exact (foldl_zeroCtrl_keepsOrSets zeroCtrl_keepsOrSets_clkEn ms).idem ctl

section
variable {i : Instr} {s s₁ s₂ : State}

theorem primitive_twice {ag : Agent} (hi : isPrimitive i = true) (hzero : s.par.woRead = .zero)
    (hs : s.standsAt ag 0) (h₁ : execWhole i s = .next s₁) (hr₁ : s₁.running) (h₂ : execWhole i s₁ = .next s₂)
    (hr₂ : s₂.running) : s₂.ctrl = s₁.ctrl := by
  obtain ⟨ctl, ag₁, hc, hctrl₁, hpar, hs₁⟩ := execWhole_primitive hi hzero hs h₁ hr₁
  obtain ⟨ctl₁, -, hc₁, hctrl₂, -⟩ := execWhole_primitive hi (hpar ▸ hzero) hs₁ h₂ hr₂
  have hlt := (List.getElem?_eq_some_iff.mp hc).1
  rw [hctrl₁, List.getElem?_set_self hlt] at hc₁
  rw [hctrl₂, ← Option.some.inj hc₁, hpar, foldl_zeroCtrl_idem, hctrl₁, List.set_set]

/-- `GET_LEVEL` changes no controller (R80, R197). -/
theorem execWhole_getLevel_ctrl {c : Nat} {mask : Word} {t : State} (h : execWhole (.getLevel c mask) s = .next t) :
    t.ctrl = s.ctrl := by
  rw [execWhole_of_length_one rfl] at h
  obtain ⟨-, hlevel, -⟩ := readsChangeNoController
  obtain ⟨hctrl, -⟩ := hlevel c mask s t h
  exact hctrl

/-- A whole `CLOCK_ENABLE` without a mark found its controller and enabled its clock (R196). -/
theorem execWhole_clockEnable {c : Nat} {ag : Agent} {t : State} (hs : s.standsAt ag 0)
    (h : execWhole (.clockEnable c) s = .next t) (ht : t.running) :
    ∃ ctl, s.ctrl[c]? = some ctl ∧
      t = s.after c { ctl with clkEn := true } { ag with pc := ag.pc.nextOp } [.clockEnable s.cur c] := by
  rw [execWhole_of_length_one rfl] at h
  cases hc : s.ctrl[c]? with
  | none =>
    obtain rfl := Host.Outcome.next.inj ((exec_noController (i := .clockEnable c) hs hc).symm.trans h)
    exact absurd ht (s.refusedFor_not_running _)
  | some ctl => exact ⟨ctl, rfl, Host.Outcome.next.inj (h.symm.trans (exec_clockEnable hs hc))⟩

theorem clockEnable_twice {c : Nat} {ag : Agent} (hs : s.standsAt ag 0) (h₁ : execWhole (.clockEnable c) s = .next s₁)
    (hr₁ : s₁.running) (h₂ : execWhole (.clockEnable c) s₁ = .next s₂) (hr₂ : s₂.running) : s₂.ctrl = s₁.ctrl := by
  obtain ⟨ctl, hc, rfl⟩ := execWhole_clockEnable hs h₁ hr₁
  obtain ⟨ctl₁, hc₁, rfl⟩ :=
    execWhole_clockEnable (ag := { ag with pc := ag.pc.nextOp }) (after_standsAt hs rfl) h₂ hr₂
  rw [State.after_ctrl, List.getElem?_set_self (List.getElem?_eq_some_iff.mp hc).1] at hc₁
  obtain rfl := Option.some.inj hc₁
  simp [List.set_set]

end

/-- Settles O46: a primitive by `foldl_zeroCtrl_idem`, `GET_LEVEL` because it changes no controller, and `CLOCK_ENABLE`
because the clock it enables is enabled already. -/
theorem primitivesAreIdempotent : Obligations.PrimitivesAreIdempotent := by
  intro i s s₁ s₂ ag hzero hs h₁ hr₁ h₂ hr₂ hi
  refine ⟨?_, fun c mask hi => execWhole_getLevel_ctrl (hi ▸ h₁)⟩
  rcases hi with hi | ⟨c, rfl⟩
  · rcases primitive_or_getLevel hi with hi | ⟨c, mask, rfl⟩
    · exact primitive_twice hi hzero hs h₁ hr₁ h₂ hr₂
    · exact execWhole_getLevel_ctrl h₂
  · exact clockEnable_twice hs h₁ hr₁ h₂ hr₂

/-! ### Locality (R203) -/

/-- The data of the micro-step, where it writes a port of field `F`, is 0 at bit `n`. -/
def MicroOp.leavesBit (F : StatusField) (n : Nat) : MicroOp → Prop
  | .wr P v | .wro P v => portField P = F → v.testBit n = false
  | .rd _ | .rdl _ | .rdRet _ | .clk => True

theorem zeroCtrl_testBit {F : StatusField} {n : Nat} {m : MicroOp} (h : m.leavesBit F n) (ctl : Ctrl) :
    ((m.zeroCtrl ctl).field F).testBit n = (ctl.field F).testBit n := by
  cases m with
  | wr P v | wro P v =>
    by_cases hF : portField P = F
    · exact Ctrl.written_field_testBit (h hF) ctl P F
    · simp [MicroOp.zeroCtrl, Ctrl.written_field, hF]
  | rd | rdl | rdRet => rfl
  | clk => simp [MicroOp.zeroCtrl]

theorem foldl_zeroCtrl_testBit {F : StatusField} {n : Nat} {ms : List MicroOp} (h : ∀ m ∈ ms, m.leavesBit F n)
    (ctl : Ctrl) : ((ms.foldl MicroOp.zeroCtrl ctl).field F).testBit n = (ctl.field F).testBit n := by
  induction ms generalizing ctl with
  | nil => rfl
  | cons m ms ih =>
    obtain ⟨hm, hms⟩ := List.forall_mem_cons.mp h
    exact (ih hms _).trans (zeroCtrl_testBit hm ctl)

/-- A micro-step whose words are 0 at the bit leaves it. -/
theorem MicroOp.accesses.leavesBit {ws : List Word} {m : MicroOp} {n : Nat} (h : m.accesses ws)
    (hws : ∀ w ∈ ws, w.testBit n = false) (F : StatusField) : m.leavesBit F n := by
  cases m with
  | wr P v | wro P v => exact fun _ => hws v h
  | rd | rdl | rdRet | clk => trivial

/-- `CFG_OUTPUT` writes `level` to a port of `out_data` and `mask` to ports of the other fields (R195). -/
theorem expand_cfgOutput_leavesBit {F : StatusField} {n : Nat} {mask level : Word}
    (h : (if F = .outData then level else mask).testBit n = false) (p : Params) (c : Nat) (md pu : Bool) :
    ∀ m ∈ expand p (.cfgOutput c mask level md pu), m.leavesBit F n := by
  have hlevel : StatusField.outData = F → level.testBit n = false := by
    rintro rfl
    exact h
  have hmask : ∀ P, portField P ≠ .outData → portField P = F → mask.testBit n = false := by
    rintro P hP rfl
    rwa [if_neg hP] at h
  cases md <;> cases pu <;> simpa [expand, expandCfgOutput, MicroOp.leavesBit, portField] using
    ⟨hmask .pen nofun, hmask .den nofun, hlevel, hmask .mden nofun, hmask .puen nofun⟩

/-- A whole primitive without a mark leaves a bit that its micro-steps leave, in every controller. -/
theorem execWhole_testBit {i : Instr} {s t : State} {ag : Agent} {c n : Nat} {ctl ctl' : Ctrl} {F : StatusField}
    (hi : isPrimitive i = true) (hzero : s.par.woRead = .zero) (hs : s.standsAt ag 0) (h : execWhole i s = .next t)
    (ht : t.running) (hc : s.ctrl[c]? = some ctl) (hc' : t.ctrl[c]? = some ctl')
    (hbit : ∀ m ∈ expand s.par i, m.leavesBit F n) : (ctl'.field F).testBit n = (ctl.field F).testBit n := by
  obtain ⟨own, -, hown, hctrl, -⟩ := execWhole_primitive hi hzero hs h ht
  by_cases hd : i.ctrlIndex = c
  · subst hd
    obtain rfl : own = ctl := Option.some.inj (hown.symm.trans hc)
    rw [hctrl, List.getElem?_set_self (List.getElem?_eq_some_iff.mp hc).1] at hc'
    rw [← Option.some.inj hc']
    exact foldl_zeroCtrl_testBit hbit own
  · rw [hctrl, List.getElem?_set_ne hd, hc] at hc'
    rw [Option.some.inj hc']

/-- Settles O47: the micro-steps of the four primitives write `mask` only, and those of `CFG_OUTPUT` write `level` to
`out_data` only. -/
theorem primitivesAreLocal : Obligations.PrimitivesAreLocal := by
  intro i s t ag c ctl ctl' n F hzero hs h ht hc hc'
  refine ⟨fun d mask hi hn => ?_, ?_⟩
  · have hprim : isPrimitive i = true ∧ i.pinWords = [mask] := by
      rcases hi with rfl | rfl | ⟨e, rfl⟩ | ⟨attrs, rfl⟩ <;> exact ⟨rfl, rfl⟩
    obtain ⟨hprim, hwords⟩ := hprim
    exact execWhole_testBit hprim hzero hs h ht hc hc' fun m hm =>
      (expand_accesses hprim s.par m hm).leavesBit (by simpa [hwords] using hn) F
  · rintro d mask level md pu rfl hn
    exact execWhole_testBit rfl hzero hs h ht hc hc' (expand_cfgOutput_leavesBit hn s.par d md pu)

end Sys2Proof.Machine
end

section
/-! The end of a step that faults or refuses (R233): one mark is set, and nothing else but whose step it was changes. -/

namespace Sys2Proof.Machine

/-- Settles O7: the decoder refuses for the selector alone, and the chosen agent's step there records the reason. -/
theorem stepRecordsADecodeRefusal : Obligations.StepRecordsADecodeRefusal := fun _ _ _ _ _ hr ha hag hop hd =>
  (step_of_chosen hr ha).trans (stepOf_decode_refused hr hag hop (decodeSel_of_decode_error hd))

/-- The marked next states of an instruction are its own start with one mark set (R233). -/
theorem exec_faulted_or_refusedFor {i : Instr} {s t : State} (h : exec i s = .next t) (ht : ¬ t.running) :
    (∃ r info, t = s.faulted r info) ∨ ∃ r, t = s.refusedFor r := by
  obtain ⟨hr, ag, m, -, -, hfault | hrefused | ⟨_, _, _, _, _, -, -, -, -, rfl⟩⟩ := exec_next h
  · exact .inl hfault
  · exact .inr hrefused
  · exact absurd hr ht

/-- The marked next states of a step: the decoder's refusal, or what the decoded instruction marked (R233). -/
theorem stepOf_faulted_or_refusedFor {a : Nat} {s t : State} (h : stepOf a s = .next t) (ht : ¬ t.running) :
    (∃ r info, t = (issueTo a s).faulted r info) ∨ ∃ r, t = (issueTo a s).refusedFor r := by
  obtain ⟨-, ⟨r, -, rfl⟩ | ⟨i, -, hi⟩⟩ := stepOf_next h
  · exact .inr ⟨r, rfl⟩
  · exact exec_faulted_or_refusedFor hi ht

/-- Settles O41: the marked next states of an instruction and of a step are those above, the machine's step is the chosen
agent's, and a marked machine has no step and no good end. -/
theorem faultChangesOnlyTheMark : Obligations.FaultChangesOnlyTheMark := by
  intro s t ht
  obtain ⟨hend, -⟩ := markedMachineHasNoStep t ht
  exact ⟨fun _ hi => exec_faulted_or_refusedFor hi ht, fun _ ha => stepOf_faulted_or_refusedFor ha ht, step_next,
    fun _ _ => ⟨fun h => ht (stepOf_running h), fun h => ht (step_running h)⟩, hend⟩

end Sys2Proof.Machine
end

section
/-! The state after reset and the reset event (R260, R261). -/

namespace Sys2Proof.Machine

/-- A pin whose six status bits are 0 shows the pad record of R260. -/
theorem ctrlPad_of_bits_zero {ctl : Ctrl} {i : Nat} (h : ∀ F, (ctl.field F).testBit i = false) :
    ctrlPad ctl i = { drive := .unowned, pull := false, filter := false } := by
  have hpull : ctl.puEn.testBit i = false := h .puEn
  have hfilter : ctl.filtEn.testBit i = false := h .filtEn
  rw [ctrlPad, padDrive_of_unowned (h .pioEn), hpull, hfilter]

/-- The machine's own `RESET_*` parameters are 0, so its reset controllers hold zeros (R260, D17). -/
theorem reset_params_field (F : StatusField) : (Ctrl.reset Config.params).field F = 0 := by
  cases F <;> rfl

/-- Settles O55: every controller and agent of the reset state is the reset one, and a field of zeros shows in no pad. -/
theorem resetState : Obligations.ResetState := by
  refine ⟨fun p => ⟨List.length_replicate, List.length_replicate, fun ctl hctl => ?_, fun ag hag => ?_, rfl, rfl, rfl⟩,
    rfl, ⟨rfl, rfl, rfl, rfl, rfl, rfl⟩, fun c i hc hi => ?_⟩
  · obtain rfl := List.eq_of_mem_replicate hctl
    exact ⟨rfl, rfl, rfl, rfl, rfl, rfl, PortLog.reset_get, rfl⟩
  · obtain rfl := List.eq_of_mem_replicate hag
    exact ⟨rfl, rfl, rfl⟩
  · have hctl : State.reset.ctrl[c]? = some (Ctrl.reset Config.params) := List.getElem?_replicate_of_lt hc
    rw [pad_of_lt hctl hi, ctrlPad_of_bits_zero fun F => by rw [reset_params_field, Nat.zero_testBit]]

/-- Settles O56: the reset event replaces all controllers, and of each agent all but its program. -/
theorem resetEventResetsEverything : Obligations.ResetEventResetsEverything := by
  refine fun s => ⟨rfl, ⟨rfl, rfl⟩, rfl, ?_, rfl, rfl, fun ag hag => ?_⟩
  · rw [resetEvent_agent, List.map_map]
    rfl
  · obtain ⟨_, -, rfl⟩ := List.mem_map.mp hag
    exact ⟨rfl, rfl, rfl⟩

end Sys2Proof.Machine
end

section
/-! What a pin shows while `CFG_OUTPUT` runs (R270, R274): the controller after each number of its micro-steps, the bits of
one pin there, and from those its pad. -/

namespace Sys2Proof.Machine

/-! ### A primitive stopped part-way -/

/-- The first `n` micro-steps of those that a primitive has left, uninterrupted under `WO_READ = ZERO`: their effects on
the controller one after another, where `held` says whether the agent holds the 0 of a read in `tmp`. -/
theorem execSteps_ctrl_underZero {i : Instr} {n : Nat} {s t : State} {ag : Agent} {ctl : Ctrl}
    {before todo : List MicroOp} {held : Bool} (hzero : s.par.woRead = .zero)
    (hw : ∀ w ∈ i.pinWords, pinsExist s.par w) (hc : s.clocked i.ctrlIndex ctl)
    (hs : 0 < n → s.standsAt ag before.length) (hms : expand s.par i = before ++ todo) (hn : n ≤ todo.length)
    (hacc : ∀ m ∈ todo, m.accesses i.pinWords) (hpair : tmpPaired held todo = true)
    (hheld : held = true → ag.tmp = some 0) (h : execSteps n i s = .next t) :
    t.ctrl[i.ctrlIndex]? = some ((todo.take n).foldl MicroOp.zeroCtrl ctl) := by
  induction n generalizing s ag ctl before todo held with
  | zero => exact Host.Outcome.next.inj h ▸ hc.1
  | succ n ih =>
    obtain _ | ⟨m, rest⟩ := todo
    · exact absurd hn (Nat.not_succ_le_zero n)
    have hs := hs n.succ_pos
    have ⟨_, _, hpos⟩ := hs
    obtain ⟨hm, hrest⟩ := List.forall_mem_cons.mp hacc
    simp only [tmpPaired, Bool.and_eq_true, beq_iff_eq] at hpair
    obtain ⟨huses, hpair⟩ := hpair
    have hn : n ≤ rest.length := Nat.le_of_succ_le_succ hn
    have hfirst := exec_underZero hzero hw hc hs (by rw [hms]; simp) hm fun hu => hheld (huses ▸ hu)
    have hkeep : (m.zeroCtrl ctl).clkEn = true := by
      obtain ⟨-, hon⟩ := hc
      cases m <;> simp [MicroOp.zeroCtrl, hon]
    rw [execSteps_succ hfirst] at h
    refine ih (s := s.after ..) (before := before ++ [m]) hzero hw (after_clocked hc hkeep)
      (fun hmore => after_standsAt hs ?_) (by simpa using hms) hn hrest hpair (fun hset => ?_) h
    · rw [hs.succ_of_lt (by rw [hms]; simp; omega)]
      simp [Pos.nextMicro, hpos]
    · cases m with
      | rd => rfl
      | _ => cases hset

/-- A primitive, uninterrupted under `WO_READ = ZERO`, after the first `n` of its micro-steps (R190 to R195). -/
theorem execSteps_primitive_ctrl {i : Instr} {n : Nat} {s t : State} {ag : Agent} {ctl : Ctrl} (hi : isPrimitive i = true)
    (hzero : s.par.woRead = .zero) (hs : s.standsAt ag 0) (hc : s.clocked i.ctrlIndex ctl)
    (hw : ∀ w ∈ i.pinWords, pinsExist s.par w) (hn : n ≤ (expand s.par i).length) (h : execSteps n i s = .next t) :
    t.ctrl[i.ctrlIndex]? = some (((expand s.par i).take n).foldl MicroOp.zeroCtrl ctl) :=
  execSteps_ctrl_underZero (before := []) hzero hw hc (fun _ => hs) rfl hn (expand_accesses hi s.par)
    (expand_tmpPaired s.par i) nofun h

/-! ### Writes to different fields -/

/-- The port and the data of a micro-step that writes. -/
def MicroOp.write? : MicroOp → Option (WritePort × Word)
  | .wr P v | .wro P v => some (P, v)
  | .rd _ | .rdl _ | .rdRet _ | .clk => none

/-- The status field that a micro-step writes. -/
def MicroOp.writtenField (m : MicroOp) : Option StatusField := m.write?.map fun w => portField w.1

theorem zeroCtrl_of_write {m : MicroOp} {P : WritePort} {v : Word} (h : m.write? = some (P, v)) (ctl : Ctrl) :
    m.zeroCtrl ctl = ctl.written P v := by
  cases m with
  | wr | wro =>
    cases h
    rfl
  | rd | rdl | rdRet | clk => cases h

/-- A micro-step leaves the bits of the fields it does not write. -/
theorem leavesBit_of_writtenField_ne {m : MicroOp} {F : StatusField} (h : m.writtenField ≠ some F) (n : Nat) :
    m.leavesBit F n := by
  cases m with
  | wr | wro => exact fun hF => absurd (congrArg some hF) h
  | rd | rdl | rdRet | clk => trivial

/-- A bit of the field that micro-step `j` writes, in a list whose micro-steps write different fields, after the first `k`
of them: as it was until that micro-step, and from then on what its data say. -/
theorem foldl_take_zeroCtrl_testBit {ms : List MicroOp} (hdiff : (ms.filterMap MicroOp.writtenField).Nodup) {j n : Nat}
    {P : WritePort} {v : Word} (hj : ms[j]?.bind MicroOp.write? = some (P, v)) (ctl : Ctrl) (k : Nat) :
    (((ms.take k).foldl MicroOp.zeroCtrl ctl).field (portField P)).testBit n =
      if j < k ∧ v.testBit n = true then decide (portKind P = .set) else (ctl.field (portField P)).testBit n := by
  obtain ⟨m, hget, hm⟩ := Option.bind_eq_some_iff.mp hj
  obtain ⟨hlt, rfl⟩ := List.getElem?_eq_some_iff.mp hget
  have hfield : ms[j].writtenField = some (portField P) := by rw [MicroOp.writtenField, hm]; rfl
  have hsplit : ms = ms.take j ++ ms[j] :: ms.drop (j + 1) := by simp
  rw [hsplit, List.filterMap_append, List.filterMap_cons_some hfield, List.nodup_middle, List.nodup_cons, List.mem_append,
    not_or, List.mem_filterMap, List.mem_filterMap] at hdiff
  obtain ⟨⟨hbefore, hlater⟩, -⟩ := hdiff
  have hbefore (m) (hmem : m ∈ ms.take j) : m.leavesBit (portField P) n :=
    leavesBit_of_writtenField_ne (fun hF => hbefore ⟨m, hmem, hF⟩) n
  have hlater (m) (hmem : m ∈ ms.drop (j + 1)) : m.leavesBit (portField P) n :=
    leavesBit_of_writtenField_ne (fun hF => hlater ⟨m, hmem, hF⟩) n
  by_cases hk : j < k
  · obtain ⟨l, rfl⟩ := Nat.exists_eq_add_of_lt hk
    rw [Nat.add_assoc, List.take_add, List.drop_eq_getElem_cons hlt, List.take_succ_cons, List.foldl_append,
      List.foldl_cons, foldl_zeroCtrl_testBit fun m hmem => hlater m (List.mem_of_mem_take hmem), zeroCtrl_of_write hm,
      Ctrl.written_field, if_pos rfl, applyKind_testBit, foldl_zeroCtrl_testBit hbefore]
    simp
  · rw [foldl_zeroCtrl_testBit fun m hmem => hbefore m (List.take_subset_take_left ms (Nat.le_of_not_lt hk) hmem),
      if_neg fun h => hk h.1]

/-! ### The bits of a pin during `CFG_OUTPUT` -/

/-- `CFG_OUTPUT` writes five fields, each in one micro-step (R195). -/
theorem expandCfgOutput_writtenFields (mask level : Word) (md pu : Bool) :
    (expandCfgOutput mask level md pu).filterMap MicroOp.writtenField = [.pioEn, .outEn, .outData, .mdEn, .puEn] := by
  cases md <;> cases pu <;> rfl

/-- The controller after `k` micro-steps of `CFG_OUTPUT`, uninterrupted under `WO_READ = ZERO` (R195). -/
def cfgOutputCtrl (mask level : Word) (md pu : Bool) (ctl : Ctrl) (k : Nat) : Ctrl :=
  ((expandCfgOutput mask level md pu).take k).foldl MicroOp.zeroCtrl ctl

theorem execSteps_cfgOutput_ctrl {c k : Nat} {mask level : Word} {md pu : Bool} {s t : State} {ag : Agent} {ctl : Ctrl}
    (hs : s.standsAt ag 0) (hc : s.clocked c ctl) (hmask : pinsExist s.par mask) (hlevel : pinsExist s.par level)
    (hzero : s.par.woRead = .zero) (h : execSteps k (.cfgOutput c mask level md pu) s = .next t) (hk : k ≤ 8) :
    t.ctrl[c]? = some (cfgOutputCtrl mask level md pu ctl k) := by
  rw [← expand_cfgOutput_length s.par c mask level md pu] at hk
  exact execSteps_primitive_ctrl (i := .cfgOutput c mask level md pu) rfl hzero hs hc
    (by simp [Instr.pinWords, hmask, hlevel]) hk h

/-- Each write of `CFG_OUTPUT` decides its bits of its field, and no other micro-step does (R195). -/
theorem cfgOutputCtrl_testBit {mask level v : Word} {md pu : Bool} {j n : Nat} {P : WritePort}
    (hj : (expandCfgOutput mask level md pu)[j]?.bind MicroOp.write? = some (P, v)) (ctl : Ctrl) (k : Nat) :
    ((cfgOutputCtrl mask level md pu ctl k).field (portField P)).testBit n =
      if j < k ∧ v.testBit n = true then decide (portKind P = .set) else (ctl.field (portField P)).testBit n :=
  foldl_take_zeroCtrl_testBit (by rw [expandCfgOutput_writtenFields]; decide) hj ctl k

section
variable (mask level : Word) (md pu : Bool) (ctl : Ctrl) (k n : Nat)

theorem cfgOutputCtrl_pioEn : (cfgOutputCtrl mask level md pu ctl k).pioEn.testBit n =
    if 1 < k ∧ mask.testBit n = true then true else ctl.pioEn.testBit n :=
  cfgOutputCtrl_testBit (P := .pen) rfl ctl k

theorem cfgOutputCtrl_outEn : (cfgOutputCtrl mask level md pu ctl k).outEn.testBit n =
    if 3 < k ∧ mask.testBit n = true then true else ctl.outEn.testBit n :=
  cfgOutputCtrl_testBit (P := .den) rfl ctl k

theorem cfgOutputCtrl_outData : (cfgOutputCtrl mask level md pu ctl k).outData.testBit n =
    if 4 < k ∧ level.testBit n = true then true else ctl.outData.testBit n :=
  cfgOutputCtrl_testBit (P := .oset) rfl ctl k

theorem cfgOutputCtrl_mdEn : (cfgOutputCtrl mask level md pu ctl k).mdEn.testBit n =
    if 6 < k ∧ mask.testBit n = true then md else ctl.mdEn.testBit n := by
  cases md with
  | false => exact cfgOutputCtrl_testBit (P := .mddis) rfl ctl k
  | true => exact cfgOutputCtrl_testBit (P := .mden) rfl ctl k

theorem cfgOutputCtrl_puEn : (cfgOutputCtrl mask level md pu ctl k).puEn.testBit n =
    if 7 < k ∧ mask.testBit n = true then pu else ctl.puEn.testBit n := by
  cases pu with
  | false => exact cfgOutputCtrl_testBit (P := .pudis) (by cases md <;> rfl) ctl k
  | true => exact cfgOutputCtrl_testBit (P := .puen) (by cases md <;> rfl) ctl k

end

/-! ### The pad of a pin of `mask` -/

section
variable {mask : Word} {n k : Nat} (hn : mask.testBit n = true) (level : Word) (md pu : Bool) (ctl : Ctrl)
include hn

/-- Once the controller has the pin, an input shows `Released` and an output its old level (R44). -/
theorem padDrive_cfgOutput_owned (hlo : 1 < k) (hhi : k ≤ 3) :
    padDrive (cfgOutputCtrl mask level md pu ctl k) n =
      if ctl.outEn.testBit n then outputDrive (ctl.outData.testBit n) (ctl.mdEn.testBit n) else .released := by
  have hpio := cfgOutputCtrl_pioEn mask level md pu ctl k n
  have hout := cfgOutputCtrl_outEn mask level md pu ctl k n
  rw [if_pos ⟨hlo, hn⟩] at hpio
  rw [if_neg (by omega)] at hout
  cases ho : ctl.outEn.testBit n with
  | false => exact padDrive_of_input hpio (hout.trans ho)
  | true =>
    rw [padDrive_of_output hpio (hout.trans ho), cfgOutputCtrl_outData, cfgOutputCtrl_mdEn, if_neg (by omega),
      if_neg (by omega), if_pos rfl]

/-- Once the pin is an output it shows its level, the new one from micro-step 4, with its multidrive setting, the new one
from micro-step 6 (R44). -/
theorem padDrive_cfgOutput_output (hk : 3 < k) : padDrive (cfgOutputCtrl mask level md pu ctl k) n =
    outputDrive (if 4 < k ∧ level.testBit n = true then true else ctl.outData.testBit n)
      (if 6 < k then md else ctl.mdEn.testBit n) := by
  have hpio := cfgOutputCtrl_pioEn mask level md pu ctl k n
  have hout := cfgOutputCtrl_outEn mask level md pu ctl k n
  rw [if_pos ⟨by omega, hn⟩] at hpio hout
  rw [padDrive_of_output hpio hout, cfgOutputCtrl_outData, cfgOutputCtrl_mdEn]
  simp only [hn, and_true]

end

/-- Settles O48: the controller after `k` micro-steps is `cfgOutputCtrl`, and each clause is one of the stages its pads go
through. -/
theorem configureAsOutputTransients : Obligations.ConfigureAsOutputTransients := by
  intro c mask level md pu s t ag ctl ctl' k n hs hc hmask hlevel hzero h hc' hn
  have hctl (hk : k ≤ 8) : ctl' = cfgOutputCtrl mask level md pu ctl k :=
    Option.some.inj (hc'.symm.trans (execSteps_cfgOutput_ctrl hs hc hmask hlevel hzero h hk))
  simp only [List.mem_cons, List.not_mem_nil, or_false]
  refine ⟨?_, ?_, ?_, ?_, ?_, ?_, ?_⟩
  · rintro (rfl | rfl) <;> rw [hctl (by decide)] <;> rfl
  · intro hk
    rw [hctl (by omega)]
    exact padDrive_cfgOutput_owned hn level md pu ctl (by omega) (by omega)
  · rintro rfl
    rw [hctl (by decide), padDrive_cfgOutput_output hn level md pu ctl (by decide)]
    simp
  · rintro (rfl | rfl) <;> rw [hctl (by decide), padDrive_cfgOutput_output hn level md pu ctl (by decide)] <;>
      simp [Bool.or_comm]
  · rintro (rfl | rfl) <;> rw [hctl (by decide), padDrive_cfgOutput_output hn level md pu ctl (by decide)] <;>
      simp [Bool.or_comm]
  · intro hk
    rw [hctl (by omega)]
    exact (cfgOutputCtrl_puEn mask level md pu ctl k n).trans (if_neg (by omega))
  · rintro rfl
    rw [hctl (by decide)]
    exact (cfgOutputCtrl_puEn mask level md pu ctl 8 n).trans (if_pos ⟨by decide, hn⟩)

end Sys2Proof.Machine
end
